-- ==== Sys2Proof/Word.lean ====
section
/-! DEFINITION. The word types of the daisa core: every register and every memory cell is one byte, an address is 16 bits (R8, R9). -/

namespace Sys2Proof

/-- An 8-bit register or memory cell, the spec's `u8` (R8, R12). -/
abbrev Byte := BitVec 8

/-- A flat 16-bit memory address, the spec's `u16` (R9, R12). -/
abbrev Addr := BitVec 16

end Sys2Proof
end

