-- ==== Sys2Proof/Names.lean ====
section
/-! DEFINITION. The names instructions are built from: bank registers, conditions, argument kinds, mnemonics and the argument of an ImmReg instruction. -/

namespace Sys2Proof

/-- The seven bank registers an instruction can name (R24). Register id 0 is the immediate sentinel and never a register,
so it is no constructor. -/
inductive Reg where
  | r1
  | r2
  | r3
  | r4
  | lr
  | sp
  | bp
  deriving DecidableEq, Repr

/-- The flag that a condition selects (R56). -/
inductive FlagName where
  | zero
  | carry
  | overflow
  | negative
  deriving DecidableEq, Repr

/-- A condition of `Jcc`: the selected flag, and whether its value is negated (R56). -/
structure Cond where
  flag : FlagName
  negate : Bool
  deriving DecidableEq, Repr

/-- The argument of an ImmReg instruction: a literal byte (the sentinel form) or a bank register (R55, R61). -/
inductive Arg where
  | imm (v : Byte)
  | reg (r : Reg)
  deriving DecidableEq, Repr

/-- The argument kind of an argument-taking family (R55). -/
inductive ArgKind where
  | immReg
  | regOnly
  | cond
  deriving DecidableEq, Repr

/-- The 43 mnemonics of the instruction set (R2, R59). -/
inductive Mnemonic where
  | jf | jn | jcc | calln | callf | ret
  | push | pushCsr | pop | popCsr
  | ldaCsr | staCsr | ldds | stds | ldss | stss | lda | sta | ldm | stm
  | swp | incA | decA | inc | dec | add | adc | sub
  | shl | shr | sra | rol | ror | and | or | xor | clr | cflags
  | nop | eni | dsi | iret | hlt
  deriving DecidableEq, Repr

end Sys2Proof
end

