-- ==== Sys2Proof/Syntax.lean ====
section
/-! DEFINITION. The instructions of the daisa core: one constructor per row of the opcode table (R58, R59). -/

namespace Sys2Proof

/-- A decoded instruction (R61). An `Arg` is the argument of an ImmReg instruction, a `Reg` that of a RegOnly instruction. -/
inductive Instr where
  /-- `JF`, far jump (R77). -/
  | jf (o : Arg)
  /-- `JN`, near jump (R78). -/
  | jn (o : Arg)
  /-- `Jcc`, conditional near jump to the immediate offset (R79). -/
  | jcc (c : Cond) (target : Byte)
  /-- `CALLN`, near call (R80). -/
  | calln (o : Arg)
  /-- `CALLF`, far call (R81). -/
  | callf (o : Arg)
  /-- `RET`, return through `csr` and LR (R82). -/
  | ret
  /-- `PUSH`, push a value (R84). -/
  | push (o : Arg)
  /-- `PUSH_CSR`, push the saved code segment (R85). -/
  | pushCsr
  /-- `POP`, pop into a register (R86). -/
  | pop (r : Reg)
  /-- `POP_CSR`, pop into the saved code segment (R87). -/
  | popCsr
  /-- `LDA_CSR`, load the accumulator from `csr` (R89). -/
  | ldaCsr
  /-- `STA_CSR`, store the accumulator into `csr` (R90). -/
  | staCsr
  /-- `LDDS`, load the data segment (R91). -/
  | ldds (o : Arg)
  /-- `STDS`, store the data segment into a register (R92). -/
  | stds (r : Reg)
  /-- `LDSS`, load the stack segment (R93). -/
  | ldss (o : Arg)
  /-- `STSS`, store the stack segment into a register (R94). -/
  | stss (r : Reg)
  /-- `LDA`, load the accumulator (R95). -/
  | lda (o : Arg)
  /-- `STA`, store the accumulator into a register (R96). -/
  | sta (r : Reg)
  /-- `LDM`, load the accumulator from memory (R97). -/
  | ldm (o : Arg)
  /-- `STM`, store the accumulator to memory (R98). -/
  | stm (o : Arg)
  /-- `SWP`, exchange the accumulator and a register (R103). -/
  | swp (r : Reg)
  /-- `INC_A`, increment the accumulator (R104). -/
  | incA
  /-- `DEC_A`, decrement the accumulator (R105). -/
  | decA
  /-- `INC`, increment a register (R106). -/
  | inc (r : Reg)
  /-- `DEC`, decrement a register (R107). -/
  | dec (r : Reg)
  /-- `ADD`, add without carry-in (R108). -/
  | add (o : Arg)
  /-- `ADC`, add with carry-in (R109). -/
  | adc (o : Arg)
  /-- `SUB`, subtract (R110). -/
  | sub (o : Arg)
  /-- `SHL`, shift the accumulator left by one (R111). -/
  | shl
  /-- `SHR`, logical shift right by one (R112). -/
  | shr
  /-- `SRA`, arithmetic shift right by one (R113). -/
  | sra
  /-- `ROL`, rotate left by one (R114). -/
  | rol
  /-- `ROR`, rotate right by one (R115). -/
  | ror
  /-- `AND`, bitwise and (R116). -/
  | and (o : Arg)
  /-- `OR`, bitwise or (R117). -/
  | or (o : Arg)
  /-- `XOR`, bitwise exclusive or (R118). -/
  | xor (o : Arg)
  /-- `CLR`, clear the accumulator (R119). -/
  | clr
  /-- `CFLAGS`, clear the flags (R120). -/
  | cflags
  /-- `NOP`, no operation (R121). -/
  | nop
  /-- `ENI`, enable interrupts at the end of the cycle (R122). -/
  | eni
  /-- `DSI`, disable interrupts (R123). -/
  | dsi
  /-- `IRET`, return from interrupt (R124). -/
  | iret
  /-- `HLT`, halt (R125). -/
  | hlt
  deriving DecidableEq, Repr

end Sys2Proof
end

