-- ==== Sys2Proof/Config.lean ====
section
/-! DEFINITION. What an implementation fixes and what the spec leaves open: the opcode table as a parameter (R57), the
interrupt-request draw (R133), and the fixed places of memory (R10). -/

namespace Sys2Proof

/-- The opcode table, the spec's parameter `OpTable` (R57): the mnemonic of a 6-bit no-argument id, and the mnemonic and kind
of a 5-bit family id. A family id of 24 or more can name no family (R54); `OpTable.Valid` says so. -/
structure OpTable where
  noarg : BitVec 6 → Option Mnemonic
  fam : BitVec 5 → Option (Mnemonic × ArgKind)

/-- The answer of the interrupt-request input in cycle `k`, the spec's draw `irq_k` (R133, D10). It has no body: nothing
can be proved of its value, so a claim about `step` holds for every sequence of answers. DESIGN CHOICE, log entry 2. -/
opaque Config.irq (k : Nat) : Bool

/-- Flat address of the vector slot's target segment, 0xFF:0xFE (R45). -/
def Config.vectorSegmentAddr : Addr := 0xFFFE#16

/-- Flat address of the vector slot's target offset, 0xFF:0xFF (R45). -/
def Config.vectorOffsetAddr : Addr := 0xFFFF#16

/-- The number of bytes of memory (R9). -/
def Config.memorySize : Nat := 65536

end Sys2Proof
end

