-- ==== Sys2Proof/WellFormed.lean ====
section
/-! DEFINITION. Well-formedness: of an instruction's shape (R61, R62) and of an opcode table (R57). -/

namespace Sys2Proof

/-- The four shapes of a decoded instruction before it is checked (R61). The register field is the raw three bits, so that
the sentinel 0 can be written down and refused. -/
inductive Shape where
  | noArg (op : Mnemonic)
  | reg (op : Mnemonic) (r : BitVec 3)
  | imm (op : Mnemonic) (v : Byte)
  | condImm (op : Mnemonic) (c : Cond) (v : Byte)
  deriving DecidableEq, Repr

/-- The argument kind of a mnemonic, nothing for a no-argument mnemonic (R59). -/
def Mnemonic.kind : Mnemonic → Option ArgKind
  | .nop | .ret | .iret | .hlt | .shl | .shr | .sra | .rol | .ror | .incA | .decA | .clr | .cflags
  | .pushCsr | .popCsr | .ldaCsr | .staCsr | .eni | .dsi => none
  | .jf | .jn | .calln | .callf | .push | .lda | .ldm | .stm | .ldds | .ldss
  | .add | .adc | .sub | .and | .or | .xor => some .immReg
  | .pop | .sta | .stds | .stss | .swp | .inc | .dec => some .regOnly
  | .jcc => some .cond

/-- The check of the four constructors (R62): the shape fits the mnemonic's kind, and a register field is not the sentinel. -/
def Shape.wellFormed : Shape → Bool
  | .noArg op => op.kind == none
  | .reg op r => (op.kind == some .immReg || op.kind == some .regOnly) && r != 0#3
  | .imm op _ => op.kind == some .immReg
  | .condImm op _ _ => op.kind == some .cond

/-- The constraints on an opcode table (R54, R57): every mnemonic stands exactly once, in the part and with the kind of R59;
no family id is 24 or more; the six rows fixed by the source hold. -/
structure OpTable.Valid (T : OpTable) : Prop where
  /-- A no-argument id names a no-argument mnemonic. -/
  noarg_kind : ∀ id m, T.noarg id = some m → m.kind = none
  /-- A family id below 24 names a mnemonic with its kind. -/
  fam_kind : ∀ f m k, T.fam f = some (m, k) → m.kind = some k ∧ f.toNat < 24
  /-- No mnemonic has two no-argument ids. -/
  noarg_inj : ∀ id id' m, T.noarg id = some m → T.noarg id' = some m → id = id'
  /-- No mnemonic has two family ids. -/
  fam_inj : ∀ f f' m k k', T.fam f = some (m, k) → T.fam f' = some (m, k') → f = f'
  /-- Every no-argument mnemonic has an id. -/
  noarg_total : ∀ m : Mnemonic, m.kind = none → ∃ id, T.noarg id = some m
  /-- Every argument-taking mnemonic has a family id, with its kind. -/
  fam_total : ∀ (m : Mnemonic) (k : ArgKind), m.kind = some k → ∃ f, T.fam f = some (m, k)
  src_nop : T.noarg 0#6 = some .nop
  src_ret : T.noarg 1#6 = some .ret
  src_shl : T.noarg 4#6 = some .shl
  src_jcc : T.fam 3#5 = some (.jcc, .cond)
  src_pop : T.fam 7#5 = some (.pop, .regOnly)
  src_dec : T.fam 22#5 = some (.dec, .regOnly)

end Sys2Proof
end

