-- ==== Sys2Proof/Decode.lean ====
section
/-! DEFINITION. The codec: construction of checked instructions (R62), decode (R64), encode (R63), the default opcode table
(R58), the length rule (R67) and the segment assembler (R74). -/

namespace Sys2Proof

/-! ## Fields -/

/-- The register of a 3-bit register field; the sentinel 0 names none (R24). -/
def Reg.ofBits : BitVec 3 → Option Reg
  | 0#3 => none
  | 1#3 => some .r1
  | 2#3 => some .r2
  | 3#3 => some .r3
  | 4#3 => some .r4
  | 5#3 => some .lr
  | 6#3 => some .sp
  | 7#3 => some .bp

/-- The 3-bit id of a register (R24). -/
def Reg.bits : Reg → BitVec 3
  | .r1 => 1#3
  | .r2 => 2#3
  | .r3 => 3#3
  | .r4 => 4#3
  | .lr => 5#3
  | .sp => 6#3
  | .bp => 7#3

/-- The flag of a 2-bit selector, in the order of R56 (D3). -/
def FlagName.ofBits : BitVec 2 → FlagName
  | 0#2 => .zero
  | 1#2 => .carry
  | 2#2 => .overflow
  | 3#2 => .negative

/-- The 2-bit selector of a flag (R56). -/
def FlagName.bits : FlagName → BitVec 2
  | .zero => 0#2
  | .carry => 1#2
  | .overflow => 2#2
  | .negative => 3#2

/-- The condition of a 3-bit condition field: bits [2:1] select the flag, bit 0 negates; all eight are valid (R56). -/
def Cond.ofBits (f : BitVec 3) : Cond :=
  { flag := FlagName.ofBits (f.extractLsb' 1 2), negate := f.getLsbD 0 }

/-- The 3-bit code of a condition (R56). -/
def Cond.bits (c : Cond) : BitVec 3 :=
  c.flag.bits ++ BitVec.ofBool c.negate

/-! ## Construction (R61, R62) -/

/-- What a mnemonic builds an instruction from. -/
inductive Builder where
  | noArg (i : Instr)
  | immReg (f : Arg → Instr)
  | regOnly (f : Reg → Instr)
  | cond (f : Cond → Byte → Instr)

/-- The instruction that each mnemonic builds (R59, R61). -/
def Mnemonic.builder : Mnemonic → Builder
  | .jf => .immReg .jf
  | .jn => .immReg .jn
  | .jcc => .cond .jcc
  | .calln => .immReg .calln
  | .callf => .immReg .callf
  | .ret => .noArg .ret
  | .push => .immReg .push
  | .pushCsr => .noArg .pushCsr
  | .pop => .regOnly .pop
  | .popCsr => .noArg .popCsr
  | .ldaCsr => .noArg .ldaCsr
  | .staCsr => .noArg .staCsr
  | .ldds => .immReg .ldds
  | .stds => .regOnly .stds
  | .ldss => .immReg .ldss
  | .stss => .regOnly .stss
  | .lda => .immReg .lda
  | .sta => .regOnly .sta
  | .ldm => .immReg .ldm
  | .stm => .immReg .stm
  | .swp => .regOnly .swp
  | .incA => .noArg .incA
  | .decA => .noArg .decA
  | .inc => .regOnly .inc
  | .dec => .regOnly .dec
  | .add => .immReg .add
  | .adc => .immReg .adc
  | .sub => .immReg .sub
  | .shl => .noArg .shl
  | .shr => .noArg .shr
  | .sra => .noArg .sra
  | .rol => .noArg .rol
  | .ror => .noArg .ror
  | .and => .immReg .and
  | .or => .immReg .or
  | .xor => .immReg .xor
  | .clr => .noArg .clr
  | .cflags => .noArg .cflags
  | .nop => .noArg .nop
  | .eni => .noArg .eni
  | .dsi => .noArg .dsi
  | .iret => .noArg .iret
  | .hlt => .noArg .hlt

/-- `create(op)` (R62). -/
def createNoArg (op : Mnemonic) : Option Instr :=
  match op.builder with
  | .noArg i => some i
  | .immReg _ | .regOnly _ | .cond _ => none

/-- `create(op, r)` (R62): the sentinel is refused for both kinds that take a register. -/
def createReg (op : Mnemonic) (r : BitVec 3) : Option Instr :=
  match op.builder with
  | .immReg f => (Reg.ofBits r).map fun q => f (.reg q)
  | .regOnly f => (Reg.ofBits r).map f
  | .noArg _ | .cond _ => none

/-- `create(op, v)` (R62). -/
def createImm (op : Mnemonic) (v : Byte) : Option Instr :=
  match op.builder with
  | .immReg f => some (f (.imm v))
  | .noArg _ | .regOnly _ | .cond _ => none

/-- `create(op, c, v)` (R62). -/
def createCond (op : Mnemonic) (c : Cond) (v : Byte) : Option Instr :=
  match op.builder with
  | .cond f => some (f c v)
  | .noArg _ | .immReg _ | .regOnly _ => none

/-- The instruction of a shape, by the constructor for that shape (R62): nothing rather than an invalid instruction. -/
def create : Shape → Option Instr
  | .noArg op => createNoArg op
  | .reg op r => createReg op r
  | .imm op v => createImm op v
  | .condImm op c v => createCond op c v

/-- The shape of an ImmReg instruction (R61). -/
def Arg.shape (op : Mnemonic) : Arg → Shape
  | .imm v => .imm op v
  | .reg r => .reg op r.bits

/-- The shape of an instruction (R61). -/
def Instr.shape : Instr → Shape
  | .jf o => o.shape .jf
  | .jn o => o.shape .jn
  | .jcc c v => .condImm .jcc c v
  | .calln o => o.shape .calln
  | .callf o => o.shape .callf
  | .ret => .noArg .ret
  | .push o => o.shape .push
  | .pushCsr => .noArg .pushCsr
  | .pop r => .reg .pop r.bits
  | .popCsr => .noArg .popCsr
  | .ldaCsr => .noArg .ldaCsr
  | .staCsr => .noArg .staCsr
  | .ldds o => o.shape .ldds
  | .stds r => .reg .stds r.bits
  | .ldss o => o.shape .ldss
  | .stss r => .reg .stss r.bits
  | .lda o => o.shape .lda
  | .sta r => .reg .sta r.bits
  | .ldm o => o.shape .ldm
  | .stm o => o.shape .stm
  | .swp r => .reg .swp r.bits
  | .incA => .noArg .incA
  | .decA => .noArg .decA
  | .inc r => .reg .inc r.bits
  | .dec r => .reg .dec r.bits
  | .add o => o.shape .add
  | .adc o => o.shape .adc
  | .sub o => o.shape .sub
  | .shl => .noArg .shl
  | .shr => .noArg .shr
  | .sra => .noArg .sra
  | .rol => .noArg .rol
  | .ror => .noArg .ror
  | .and o => o.shape .and
  | .or o => o.shape .or
  | .xor o => o.shape .xor
  | .clr => .noArg .clr
  | .cflags => .noArg .cflags
  | .nop => .noArg .nop
  | .eni => .noArg .eni
  | .dsi => .noArg .dsi
  | .iret => .noArg .iret
  | .hlt => .noArg .hlt

/-! ## The default opcode table (R58) -/

/-- The argument-taking families 0 to 23 of the default table, in order (R58). Families 3, 7 and 22 are the source's, the
others the spec's decision D1 (log entry 1). -/
def defaultFamilies : List (Mnemonic × ArgKind) :=
  [(.jf, .immReg), (.jn, .immReg), (.calln, .immReg), (.jcc, .cond),
   (.callf, .immReg), (.push, .immReg), (.lda, .immReg), (.pop, .regOnly),
   (.sta, .regOnly), (.ldm, .immReg), (.stm, .immReg), (.ldds, .immReg),
   (.stds, .regOnly), (.ldss, .immReg), (.stss, .regOnly), (.swp, .regOnly),
   (.add, .immReg), (.adc, .immReg), (.sub, .immReg), (.and, .immReg),
   (.or, .immReg), (.xor, .immReg), (.dec, .regOnly), (.inc, .regOnly)]

/-- The no-argument ids 0 to 18 of the default table, in order (R58); ids 19 to 63 name nothing. Ids 0, 1 and 4 are the
source's, the others the spec's decision D1 (log entry 1). -/
def defaultNoArgs : List Mnemonic :=
  [.nop, .ret, .iret, .hlt, .shl, .shr, .sra, .rol, .ror, .incA, .decA, .clr, .cflags,
   .pushCsr, .popCsr, .ldaCsr, .staCsr, .eni, .dsi]

/-- The default `OpTable` (R58). -/
def OpTable.default : OpTable where
  noarg id := defaultNoArgs[id.toNat]?
  fam f := defaultFamilies[f.toNat]?

/-! ## Decode (R64) -/

/-- The reason of a decode (R66). `success` is the spec's `None`. -/
inductive Reason where
  | success
  | noData
  | invalidOpCode
  | invalidArgument
  | noImmediate
  deriving DecidableEq, Repr

/-- The result of a decode: `(instruction?, remainder, reason)` (R64). -/
structure Decoded where
  instr : Option Instr
  rest : List Byte
  reason : Reason
  deriving DecidableEq, Repr

/-- The result for a shape read from the bytes. A table row whose kind is not its mnemonic's is refused as an unrecognised
pattern; a valid table has no such row (log entry 14). -/
def Decoded.ofShape (sh : Shape) (rest : List Byte) : Decoded :=
  match create sh with
  | some i => { instr := some i, rest := rest, reason := .success }
  | none => { instr := none, rest := rest, reason := .invalidOpCode }

/-- A decode that failed (R64, R66). -/
def Decoded.failed (reason : Reason) (rest : List Byte) : Decoded :=
  { instr := none, rest := rest, reason := reason }

/-- Decode under an opcode table, total on every byte sequence (R64). -/
def decodeWith (T : OpTable) : List Byte → Decoded
  | [] => Decoded.failed .noData []
  | b0 :: bs =>
    if b0.extractLsb' 6 2 = 0b11#2 then
      match T.noarg (b0.extractLsb' 0 6) with
      | none => Decoded.failed .invalidOpCode bs
      | some op => Decoded.ofShape (.noArg op) bs
    else
      match T.fam (b0.extractLsb' 3 5) with
      | none => Decoded.failed .invalidOpCode bs
      | some (op, .cond) =>
        match bs with
        | [] => Decoded.failed .noImmediate []
        | v :: rest => Decoded.ofShape (.condImm op (Cond.ofBits (b0.extractLsb' 0 3)) v) rest
      | some (op, .regOnly) =>
        if b0.extractLsb' 0 3 = 0#3 then Decoded.failed .invalidArgument bs
        else Decoded.ofShape (.reg op (b0.extractLsb' 0 3)) bs
      | some (op, .immReg) =>
        if b0.extractLsb' 0 3 = 0#3 then
          match bs with
          | [] => Decoded.failed .noImmediate []
          | v :: rest => Decoded.ofShape (.imm op v) rest
        else Decoded.ofShape (.reg op (b0.extractLsb' 0 3)) bs

/-- Decode under the default table. -/
def decode (bs : List Byte) : Decoded :=
  decodeWith OpTable.default bs

/-- The length of an instruction, from its first byte alone (R67): 2 for a Cond byte and for an ImmReg byte with the
sentinel, else 1. -/
def lengthFromFirstByte (T : OpTable) (b0 : Byte) : Nat :=
  if b0.extractLsb' 6 2 = 0b11#2 then 1
  else
    match T.fam (b0.extractLsb' 3 5) with
    | some (_, .cond) => 2
    | some (_, .immReg) => if b0.extractLsb' 0 3 = 0#3 then 2 else 1
    | some (_, .regOnly) => 1
    | none => 1

/-! ## Encode (R63) -/

/-- The 6-bit id that the table gives a no-argument mnemonic, the spec's `id6` (R63). -/
def OpTable.noargId (T : OpTable) (op : Mnemonic) : Option (BitVec 6) :=
  ((List.range 64).map (BitVec.ofNat 6)).find? fun id => T.noarg id == some op

/-- The 5-bit id that the table gives a family's mnemonic, the spec's `fam5` (R63). -/
def OpTable.famId (T : OpTable) (op : Mnemonic) : Option (BitVec 5) :=
  ((List.range 24).map (BitVec.ofNat 5)).find? fun f => (T.fam f).map Prod.fst == some op

/-- The bytes of a shape under an opcode table (R63); nothing when the table does not have the mnemonic (log entry 14). -/
def encodeShape (T : OpTable) : Shape → Option (List Byte)
  | .noArg op => (T.noargId op).map fun id => [0b11#2 ++ id]
  | .reg op r => (T.famId op).map fun f => [f ++ r]
  | .imm op v => (T.famId op).map fun f => [f ++ 0#3, v]
  | .condImm op c v => (T.famId op).map fun f => [f ++ c.bits, v]

/-- Encode under an opcode table (R63). -/
def encodeWith (T : OpTable) (i : Instr) : Option (List Byte) :=
  encodeShape T i.shape

/-- The bytes of an instruction under an opcode table, as a list (R63): a valid table has every mnemonic, so that the list is
the encoding; a table without the mnemonic has no bytes for it (log entry 14). -/
def bytesWith (T : OpTable) (i : Instr) : List Byte :=
  (encodeWith T i).getD []

/-- The bytes of an instruction under the default table, which has every mnemonic. -/
def encode (i : Instr) : List Byte :=
  bytesWith OpTable.default i

/-! ## The segment assembler (R73 to R75), under any opcode table -/

/-- One call of the segment assembler: the bytes written to the segment, the leftover instructions, and the deferred
immediate byte. The bytes after the last written one are not part of the stream and are not represented (D20, log entry 13). -/
structure Assembled where
  segment : List Byte
  leftover : List Instr
  deferred : Option Byte
  deriving DecidableEq, Repr

/-- The loop of R74 with `k` slots of the segment already written. -/
def assembleFrom (T : OpTable) (k : Nat) : List Instr → Assembled
  | [] => { segment := [], leftover := [], deferred := none }
  | i :: ins =>
    if 256 ≤ k then { segment := [], leftover := i :: ins, deferred := none }
    else
      match bytesWith T i with
      | [b0, b1] =>
        if k + 1 = 256 then { segment := [b0], leftover := ins, deferred := some b1 }
        else
          let r := assembleFrom T (k + 2) ins
          { r with segment := b0 :: b1 :: r.segment }
      | bs =>
        let r := assembleFrom T (k + bs.length) ins
        { r with segment := bs ++ r.segment }

/-- `assemble(ins, deferred?)` (R74): a deferred byte is written first, at offset 0. -/
def assemble (T : OpTable) (ins : List Instr) : Option Byte → Assembled
  | none => assembleFrom T 0 ins
  | some d =>
    let r := assembleFrom T 1 ins
    { r with segment := d :: r.segment }

/-- At most `n` calls of `assemble`, chained until nothing is left over (R73): the segments, and the byte that the last call
deferred. -/
def assembleSegments (T : OpTable) : Nat → List Instr → Option Byte → List (List Byte) × Option Byte
  | 0, _, d => ([], d)
  | n + 1, ins, d =>
    let r := assemble T ins d
    if r.leftover = [] then ([r.segment], r.deferred)
    else
      let q := assembleSegments T n r.leftover r.deferred
      (r.segment :: q.1, q.2)

/-- The segments of a sequence given in chunks, starting with a deferred byte or none: every chunk is assembled by a chain of
its own, which takes over the byte that the chain before it deferred, and a byte still deferred at the end gets a segment
(R75, log entry 13). One call more than a chunk has instructions is enough: every call writes an instruction or ends the
chain. -/
def assembleChunks (T : OpTable) : List (List Instr) → Option Byte → List (List Byte)
  | [], none => []
  | [], some d => [[d]]
  | ins :: more, d =>
    let q := assembleSegments T (ins.length + 1) ins d
    q.1 ++ assembleChunks T more q.2

/-- All segments of a program, assembled in one chunk. -/
def assembleProgram (T : OpTable) (ins : List Instr) : List (List Byte) :=
  assembleChunks T [ins] none

/-! ## Words of the opcode table -/

/-- The two bytes of an instruction word numbered as the opcode table numbers it: byte 0 is bits 7..0, byte 1 bits 15..8;
every bit at or above `nbits` is 0. -/
def tableWordBytes (nbits w : Nat) : Byte × Byte :=
  (BitVec.ofNat 8 (w % 2 ^ nbits), BitVec.ofNat 8 (w % 2 ^ nbits / 256))

/-- The instruction the decoder reads from a word of the opcode table. -/
def decodeTableWord (nbits w : Nat) : Option Instr :=
  (decode [(tableWordBytes nbits w).1, (tableWordBytes nbits w).2]).instr

end Sys2Proof
end

