-- ==== Sys2Proof/Machine/State.lean ====
section
/-! DEFINITION. The state of the daisa core as plain data (R18), the reasons a step can stop, and the state after reset
(R146). -/

namespace Sys2Proof.Machine

/-- The seven registers of the bank, `x[1]` to `x[7]` (R24). Slot 0 is the flags and is no byte (R27). -/
structure Bank where
  r1 : Byte
  r2 : Byte
  r3 : Byte
  r4 : Byte
  lr : Byte
  sp : Byte
  bp : Byte
  deriving DecidableEq, Repr

/-- The four flags zero, carry, overflow, negative (R26, R27). -/
structure Flags where
  z : Bool
  c : Bool
  v : Bool
  n : Bool
  deriving DecidableEq, Repr

/-- Why the core halted (R131). -/
inductive HaltReason where
  | hlt
  | invalidOpCode
  | invalidArgument
  | noImmediate
  deriving DecidableEq, Repr

/-- The memory (R32): the listed cells, at rising addresses; an unlisted address reads as `Memory.blank`. -/
abbrev Memory := List Host.Cell

/-- What an unlisted address reads as. The spec leaves the initial memory to the host (D19). DESIGN CHOICE, log entry 3. -/
def Memory.blank : Byte := 0#8

/-- Every listed address is above `low` and below the memory's size, the addresses rise strictly, and no listed byte is
`Memory.blank`. -/
def Memory.wfAbove : (low : Nat) → Memory → Bool
  | _, [] => true
  | low, (a, v) :: m => decide (low ≤ a) && decide (a < Config.memorySize) && v != Memory.blank && Memory.wfAbove (a + 1) m

/-- The canonical form of memory: equal memories are equal lists. -/
def Memory.wf (m : Memory) : Bool :=
  Memory.wfAbove 0 m

/-- The architectural state (R18), with the recorded halt reason (R131) and the model's own cycle number. -/
structure State where
  /-- Accumulator (R20). -/
  a : Byte
  /-- Code segment (R21). -/
  cs : Byte
  /-- Instruction pointer, the offset within `cs` (R22). -/
  ip : Byte
  /-- Data segment (R21). -/
  ds : Byte
  /-- Stack segment (R21). -/
  ss : Byte
  /-- Saved caller code segment (R23). -/
  csr : Byte
  /-- The bank registers (R24). -/
  bank : Bank
  /-- The flags (R26). -/
  flags : Flags
  /-- Interrupts enabled (R28). -/
  ie : Bool
  /-- The enable latch, live only inside a cycle (R29). -/
  iePend : Bool
  /-- The terminal state (R30). -/
  halted : Bool
  /-- Why the core halted, an observation (R131). -/
  haltReason : Option HaltReason
  /-- The memory (R32). -/
  mem : Memory
  /-- The model's own field: the number of the next cycle, which picks the request draw of R133 (log entry 9). -/
  cycleNo : Nat
  deriving DecidableEq, Repr

/-- Why a step stops. Only a step of a halted core stops: "When `halted` is true the core has no step" (R126, R144). All are
safe: the model stops where the hardware has stopped too (log entry 6). -/
inductive Fault where
  /-- Raised by the step of a core that `HLT` halted (R125), the normal end of a run; also of a halted core with no recorded
  reason, which no run reaches. Safe. -/
  | halted
  /-- Raised by the step of a core halted by an unrecognised opcode byte (R130). Safe. -/
  | haltedInvalidOpCode
  /-- Raised by the step of a core halted by a RegOnly byte with the sentinel register (R130). Safe. -/
  | haltedInvalidArgument
  /-- Raised by the step of a core halted by an immediate missing at the end of memory (R130). Safe. -/
  | haltedNoImmediate
  deriving DecidableEq, Repr

/-- Why a step has no meaning. Every instruction has one, so no step answers this. -/
inductive Refusal where
  /-- Raised by a refused arm of `exec` for an instruction without a meaning; there is none. Safe. -/
  | notModelled (mnemonic : String)
  deriving DecidableEq, Repr

/-- The bank after reset: "created zero-initialized" (R18, R146). -/
def Bank.zero : Bank :=
  { r1 := 0#8, r2 := 0#8, r3 := 0#8, r4 := 0#8, lr := 0#8, sp := 0#8, bp := 0#8 }

/-- All flags false (R18, R146). -/
def Flags.clear : Flags :=
  { z := false, c := false, v := false, n := false }

/-- Reset with a start address and a memory image supplied by the host (R146, D12, D19). The halt reason is none: DESIGN
CHOICE, log entry 8. -/
def State.boot (start : Addr) (mem0 : Memory) : State where
  a := 0#8
  cs := start.extractLsb' 8 8
  ip := start.extractLsb' 0 8
  ds := 0#8
  ss := 0#8
  csr := 0#8
  bank := Bank.zero
  flags := Flags.clear
  ie := false
  iePend := false
  halted := false
  haltReason := none
  mem := mem0
  cycleNo := 0

/-- The machine right after reset, with start address 0x0000 and no listed memory. DESIGN CHOICE, log entries 3 and 4. -/
def State.reset : State :=
  State.boot 0x0000#16 []

end Sys2Proof.Machine
end

