-- ==== Sys2Proof/Machine/Flags.lean ====
section
/-! DEFINITION. The flag functions of the execute stage: `ZN`, `AddOp` and `SubOp` (R100 to R102). -/

namespace Sys2Proof.Machine

/-- `ZN(v)` (R100): zero and negative from a result, carry and overflow kept. -/
def znFlags (res : Byte) (f : Flags) : Flags :=
  { f with z := res == 0#8, n := res.msb }

/-- The overflow test of R101, which R102 uses as it stands: the operands share their sign bit and the result's differs. -/
def overflowTest (x y res : Byte) : Bool :=
  x.msb == y.msb && res.msb != x.msb

/-- The flags of a 16-bit intermediate (R101, R102): carry is its bit 8. -/
def arithFlags (x y : Byte) (t : BitVec 16) : Flags :=
  { z := t.extractLsb' 0 8 == 0#8
    c := t.getLsbD 8
    v := overflowTest x y (t.extractLsb' 0 8)
    n := (t.extractLsb' 0 8).msb }

/-- The 16-bit intermediate of `AddOp`: both operands widened by value, plus the carry-in (R101). -/
def addWide (x y : Byte) (cin : Bool) : BitVec 16 :=
  x.setWidth 16 + y.setWidth 16 + (BitVec.ofBool cin).setWidth 16

/-- The 16-bit intermediate of `SubOp` (R102). -/
def subWide (x y : Byte) : BitVec 16 :=
  x.setWidth 16 - y.setWidth 16

/-- `AddOp(x, y, cin)`: the result and all four flags (R101). -/
def addOp (x y : Byte) (cin : Bool) : Byte × Flags :=
  ((addWide x y cin).extractLsb' 0 8, arithFlags x y (addWide x y cin))

/-- `SubOp(x, y)`: the result and all four flags, the overflow by the literal add test (R102, D7). -/
def subOp (x y : Byte) : Byte × Flags :=
  ((subWide x y).extractLsb' 0 8, arithFlags x y (subWide x y))

/-- The flags of a logic operation or a shift that forces carry and overflow (R116 to R118): `ZN` of the result over them. -/
def forcedFlags (res : Byte) (carry overflow : Bool) : Flags :=
  znFlags res { z := false, c := carry, v := overflow, n := false }

end Sys2Proof.Machine
end

