-- ==== Sys2Proof/Machine/Ops.lean ====
section
/-! DEFINITION. The named operations over memory and registers: byte reads and writes, segment addresses, register access,
the program counter, push and pop, interrupt entry and the return from it, and the halt. -/

namespace Sys2Proof.Machine

/-! ## Memory (R14, R32, R35) -/

/-- The byte at an address of a memory: the listed one, or `Memory.blank`. The listed addresses rise, so the search ends at
the first larger one. -/
def Memory.read : Memory → Nat → Byte
  | [], _ => Memory.blank
  | (b, w) :: m, a => if a = b then w else if a < b then Memory.blank else Memory.read m a

/-- A memory without its leading cells at or below an address; on a canonical tail above that address this is the identity. -/
def Memory.dropThrough (a : Nat) : Memory → Memory
  | [] => []
  | (b, w) :: m => if b ≤ a then Memory.dropThrough a m else (b, w) :: m

/-- A cell in front of a memory, or nothing where the byte is what an unlisted address reads as. -/
def Memory.cell (a : Nat) (v : Byte) (m : Memory) : Memory :=
  if v = Memory.blank then m else (a, v) :: m

/-- The memory with the byte at an address set; the canonical form is kept. -/
def Memory.write : Memory → Nat → Byte → Memory
  | [], a, v => Memory.cell a v []
  | (b, w) :: m, a, v =>
    if a < b then Memory.cell a v ((b, w) :: m)
    else if a = b then Memory.cell a v (Memory.dropThrough a m)
    else (b, w) :: Memory.write m a v

/-- `SegAddr(s, o) = s ++ o` (R33). -/
def segAddr (seg off : Byte) : Addr :=
  seg ++ off

/-- `MemRead(addr, 1)` (R14). -/
def State.readByte (s : State) (addr : Addr) : Byte :=
  Memory.read s.mem addr.toNat

/-- `MemWrite(addr, 1, v)` (R14). -/
def State.writeByte (s : State) (addr : Addr) (v : Byte) : State :=
  { s with mem := Memory.write s.mem addr.toNat v }

/-! ## Registers (R13) -/

/-- The bank register of a name (R24). -/
def Bank.get (b : Bank) : Reg → Byte
  | .r1 => b.r1
  | .r2 => b.r2
  | .r3 => b.r3
  | .r4 => b.r4
  | .lr => b.lr
  | .sp => b.sp
  | .bp => b.bp

/-- The bank with one register set. -/
def Bank.set (b : Bank) (r : Reg) (v : Byte) : Bank :=
  match r with
  | .r1 => { b with r1 := v }
  | .r2 => { b with r2 := v }
  | .r3 => { b with r3 := v }
  | .r4 => { b with r4 := v }
  | .lr => { b with lr := v }
  | .sp => { b with sp := v }
  | .bp => { b with bp := v }

/-- A read of `x[r]` (R13). -/
def State.getReg (s : State) (r : Reg) : Byte :=
  s.bank.get r

/-- A write of `x[r]` (R13). It rolls no segment, whatever the register (R44). -/
def State.setReg (s : State) (r : Reg) (v : Byte) : State :=
  { s with bank := s.bank.set r v }

/-- A write of the accumulator. -/
def State.setA (s : State) (v : Byte) : State :=
  { s with a := v }

/-- A write of `csr`. -/
def State.setCsr (s : State) (v : Byte) : State :=
  { s with csr := v }

/-- A write of `ds`. -/
def State.setDs (s : State) (v : Byte) : State :=
  { s with ds := v }

/-- A write of `ss`. -/
def State.setSs (s : State) (v : Byte) : State :=
  { s with ss := v }

/-- A write of the four flags. -/
def State.setFlags (s : State) (f : Flags) : State :=
  { s with flags := f }

/-- A write of `ie`. -/
def State.setIe (s : State) (b : Bool) : State :=
  { s with ie := b }

/-- A write of the enable latch `ie_pend`. -/
def State.setIePend (s : State) (b : Bool) : State :=
  { s with iePend := b }

/-! ## The program counter (R22) -/

/-- `pc <- (seg, off)` (R13). -/
def State.setPc (s : State) (seg off : Byte) : State :=
  { s with cs := seg, ip := off }

/-- `ip <- off`, the near transfer: `cs` stays (R40). -/
def State.setIp (s : State) (off : Byte) : State :=
  { s with ip := off }

/-- The flat address `cs ++ ip` of the next fetch (R22). -/
def State.pc (s : State) : Addr :=
  segAddr s.cs s.ip

/-- The program counter advanced past `n` bytes, carrying from `ip` into `cs`, modulo 2^16 (R39, D5). -/
def State.advance (s : State) (n : Nat) : State :=
  s.setPc ((s.pc + BitVec.ofNat 16 n).extractLsb' 8 8) ((s.pc + BitVec.ofNat 16 n).extractLsb' 0 8)

/-! ## Fetch (R38) -/

/-- The whole window of R38: the bytes from `cs ++ ip` to the end of memory, without wrap (D4). -/
def State.fetchWindow (s : State) : List Byte :=
  (List.range (Config.memorySize - s.pc.toNat)).map fun k => Memory.read s.mem (s.pc.toNat + k)

/-- The part of the window the decoder can look at: its first byte, and the second where there is one (R67, R145, log entry 10). -/
def State.fetchBytes (s : State) : List Byte :=
  if s.pc = 0xFFFF#16 then [s.readByte s.pc]
  else [s.readByte s.pc, s.readByte (s.pc + 1#16)]

/-! ## The stack (R42, R43) -/

/-- The address `ss ++ sp` that the next push writes (R42). -/
def State.pushAddr (s : State) : Addr :=
  segAddr s.ss s.bank.sp

/-- `ss` after a push: rolled forward when `sp` was 0xFF (R42, D11). -/
def State.ssAfterPush (s : State) : Byte :=
  if s.bank.sp = 0xFF#8 then s.ss + 1#8 else s.ss

/-- `ss` after a pop: rolled backward when `sp` was 0x00 (R43, D11). -/
def State.ssAfterPop (s : State) : Byte :=
  if s.bank.sp = 0x00#8 then s.ss - 1#8 else s.ss

/-- The address that the next pop reads: `ss ++ sp` after the decrement (R43). -/
def State.popAddr (s : State) : Addr :=
  segAddr s.ssAfterPop (s.bank.sp - 1#8)

/-- `Push(v)` (R42): write at `ss:sp`, then increment `sp`, rolling `ss`. -/
def State.push (s : State) (v : Byte) : State :=
  ((s.writeByte s.pushAddr v).setSs s.ssAfterPush).setReg .sp (s.bank.sp + 1#8)

/-- The state after `Pop()` (R43): `sp` decremented, `ss` rolled. -/
def State.popped (s : State) : State :=
  (s.setSs s.ssAfterPop).setReg .sp (s.bank.sp - 1#8)

/-- The byte that `Pop()` returns (R43). -/
def State.popValue (s : State) : Byte :=
  s.readByte s.popAddr

/-! ## Interrupts (R127, R124) -/

/-- Interrupt entry (R127), the one exception the core takes: push `cs`, push `ip`, clear `ie`, then read the vector and go
there. Nothing else is saved. -/
def State.interruptEntry (s : State) : State :=
  let t := ((s.push s.cs).push s.ip).setIe false
  t.setPc (t.readByte Config.vectorSegmentAddr) (t.readByte Config.vectorOffsetAddr)

/-- The return from it (R124): pop `ip`, then pop `cs`, and queue the interrupt enable. -/
def State.interruptReturn (s : State) : State :=
  let off := s.popValue
  let t := s.popped
  let seg := t.popValue
  (t.popped.setPc seg off).setIePend true

/-! ## Halt (R30, R131) -/

/-- `raise Halt(reason)`: the terminal state, with the reason recorded (R14, R131). -/
def State.haltWith (s : State) (reason : Option HaltReason) : State :=
  { s with halted := true, haltReason := reason }

/-- The next cycle's number; the model's own field (log entry 9). -/
def State.countCycle (s : State) : State :=
  { s with cycleNo := s.cycleNo + 1 }

end Sys2Proof.Machine
end

