-- ==== Sys2Proof/Machine/Operands.lean ====
section
/-! DEFINITION. The operand forms: the argument value, the memory operand and its segment, and the condition (R56, R70, R71). -/

namespace Sys2Proof.Machine

/-- The argument value `argval` (R70): the literal, or the named register's current byte. -/
def argval (o : Arg) (s : State) : Byte :=
  match o with
  | .imm v => v
  | .reg r => s.getReg r

/-- `memseg` (R71): `ss` when the register operand names SP or BP, else `ds`. -/
def memseg (o : Arg) (s : State) : Byte :=
  match o with
  | .reg .sp => s.ss
  | .reg .bp => s.ss
  | .reg .r1 | .reg .r2 | .reg .r3 | .reg .r4 | .reg .lr => s.ds
  | .imm _ => s.ds

/-- The address of the memory operand, `SegAddr(memseg, argval)` (R41, R71). -/
def memaddr (o : Arg) (s : State) : Addr :=
  segAddr (memseg o s) (argval o s)

/-- The flag of a name (R56). -/
def flagOf (n : FlagName) (f : Flags) : Bool :=
  match n with
  | .zero => f.z
  | .carry => f.c
  | .overflow => f.v
  | .negative => f.n

/-- Whether a condition holds (R56, R79): the selected flag, negated when the condition says so. -/
def condHolds (c : Cond) (f : Flags) : Bool :=
  Bool.xor (flagOf c.flag f) c.negate

end Sys2Proof.Machine
end

