-- ==== Sys2Proof/Machine/Alu.lean ====
section
/-! DEFINITION. The execute stage (R103 to R120). These instructions never touch memory, `cs`, `ip`, `ds`, `ss` or `csr`. -/

namespace Sys2Proof.Machine

/-- A result and its flags written to the accumulator. -/
def State.setAFlags (s : State) (p : Byte × Flags) : State :=
  (s.setA p.1).setFlags p.2

/-- A result and its flags written to a bank register. -/
def State.setRegFlags (s : State) (r : Reg) (p : Byte × Flags) : State :=
  (s.setReg r p.1).setFlags p.2

/-- `SWP` (R103): exchange `a` and `x[r]`. -/
def execSwp (r : Reg) (s : State) : Host.Outcome State Fault Refusal :=
  .next ((s.setReg r s.a).setA (s.getReg r))

/-- `INC_A` (R104): `a <- AddOp(a, 1, 0)`. -/
def execIncA (s : State) : Host.Outcome State Fault Refusal :=
  .next (s.setAFlags (addOp s.a 1#8 false))

/-- `DEC_A` (R105): `a <- SubOp(a, 1)`. -/
def execDecA (s : State) : Host.Outcome State Fault Refusal :=
  .next (s.setAFlags (subOp s.a 1#8))

/-- `INC` (R106): `x[r] <- AddOp(x[r], 1, 0)`. -/
def execInc (r : Reg) (s : State) : Host.Outcome State Fault Refusal :=
  .next (s.setRegFlags r (addOp (s.getReg r) 1#8 false))

/-- `DEC` (R107): `x[r] <- SubOp(x[r], 1)`. -/
def execDec (r : Reg) (s : State) : Host.Outcome State Fault Refusal :=
  .next (s.setRegFlags r (subOp (s.getReg r) 1#8))

/-- `ADD` (R108): `a <- AddOp(a, argval, 0)`. -/
def execAdd (o : Arg) (s : State) : Host.Outcome State Fault Refusal :=
  .next (s.setAFlags (addOp s.a (argval o s) false))

/-- `ADC` (R109): `a <- AddOp(a, argval, C)`. -/
def execAdc (o : Arg) (s : State) : Host.Outcome State Fault Refusal :=
  .next (s.setAFlags (addOp s.a (argval o s) s.flags.c))

/-- `SUB` (R110): `a <- SubOp(a, argval)`. -/
def execSub (o : Arg) (s : State) : Host.Outcome State Fault Refusal :=
  .next (s.setAFlags (subOp s.a (argval o s)))

/-- `SHL` (R111): carry from bit 7, `ZN` of the result, overflow unchanged. -/
def execShl (s : State) : Host.Outcome State Fault Refusal :=
  .next (s.setAFlags (s.a <<< 1, znFlags (s.a <<< 1) { s.flags with c := s.a.msb }))

/-- `SHR` (R112): a 0 enters bit 7, carry false, `ZN` of the result, overflow unchanged. -/
def execShr (s : State) : Host.Outcome State Fault Refusal :=
  .next (s.setAFlags (s.a >>> 1, znFlags (s.a >>> 1) { s.flags with c := false }))

/-- `SRA` (R113): bit 7 kept, carry false, `ZN` of the result, overflow unchanged. -/
def execSra (s : State) : Host.Outcome State Fault Refusal :=
  .next (s.setAFlags ((s.a >>> 1) ||| (s.a &&& 0x80#8), znFlags ((s.a >>> 1) ||| (s.a &&& 0x80#8)) { s.flags with c := false }))

/-- `ROL` (R114): `a[6:0] ++ a[7]`, `ZN` of the result, carry and overflow unchanged. -/
def execRol (s : State) : Host.Outcome State Fault Refusal :=
  .next (s.setAFlags (s.a.extractLsb' 0 7 ++ s.a.extractLsb' 7 1, znFlags (s.a.extractLsb' 0 7 ++ s.a.extractLsb' 7 1) s.flags))

/-- `ROR` (R115): `a[0] ++ a[7:1]`, `ZN` of the result, carry and overflow unchanged. -/
def execRor (s : State) : Host.Outcome State Fault Refusal :=
  .next (s.setAFlags (s.a.extractLsb' 0 1 ++ s.a.extractLsb' 1 7, znFlags (s.a.extractLsb' 0 1 ++ s.a.extractLsb' 1 7) s.flags))

/-- `AND` (R116): carry and overflow false. -/
def execAnd (o : Arg) (s : State) : Host.Outcome State Fault Refusal :=
  .next (s.setAFlags (s.a &&& argval o s, forcedFlags (s.a &&& argval o s) false false))

/-- `OR` (R117): carry and overflow false. -/
def execOr (o : Arg) (s : State) : Host.Outcome State Fault Refusal :=
  .next (s.setAFlags (s.a ||| argval o s, forcedFlags (s.a ||| argval o s) false false))

/-- `XOR` (R118): carry TRUE, a quirk the source preserves on purpose; overflow false. -/
def execXor (o : Arg) (s : State) : Host.Outcome State Fault Refusal :=
  .next (s.setAFlags (s.a ^^^ argval o s, forcedFlags (s.a ^^^ argval o s) true false))

/-- `CLR` (R119): `a <- 0`, the flags unchanged (D8). -/
def execClr (s : State) : Host.Outcome State Fault Refusal :=
  .next (s.setA 0#8)

/-- `CFLAGS` (R120): all four flags cleared. -/
def execCflags (s : State) : Host.Outcome State Fault Refusal :=
  .next (s.setFlags Flags.clear)

end Sys2Proof.Machine
end

