-- ==== Sys2Proof/Machine/Control.lean ====
section
/-! DEFINITION. Control transfer: JF, JN, Jcc, CALLN, CALLF, RET (R76 to R83). `cs` and `ip` are already advanced past the
instruction (R39). -/

namespace Sys2Proof.Machine

/-- `JF` (R77): `pc <- (a, argval)`. -/
def execJf (o : Arg) (s : State) : Host.Outcome State Fault Refusal :=
  .next (s.setPc s.a (argval o s))

/-- `JN` (R78): `ip <- argval`. -/
def execJn (o : Arg) (s : State) : Host.Outcome State Fault Refusal :=
  .next (s.setIp (argval o s))

/-- `Jcc` (R79): `ip <- v` when the condition holds. -/
def execJcc (c : Cond) (v : Byte) (s : State) : Host.Outcome State Fault Refusal :=
  .next (if condHolds c s.flags then s.setIp v else s)

/-- `CALLN` (R80): `csr <- cs; LR <- ip; ip <- argval`, the operand read first (D9). -/
def execCalln (o : Arg) (s : State) : Host.Outcome State Fault Refusal :=
  .next (((s.setCsr s.cs).setReg .lr s.ip).setIp (argval o s))

/-- `CALLF` (R81): `csr <- cs; LR <- ip; pc <- (a, argval)`, the operand read first (D9). -/
def execCallf (o : Arg) (s : State) : Host.Outcome State Fault Refusal :=
  .next (((s.setCsr s.cs).setReg .lr s.ip).setPc s.a (argval o s))

/-- `RET` (R82): `pc <- (csr, LR)`. -/
def execRet (s : State) : Host.Outcome State Fault Refusal :=
  .next (s.setPc s.csr (s.getReg .lr))

end Sys2Proof.Machine
end

