-- ==== Sys2Proof/Machine/LoadStore.lean ====
section
/-! DEFINITION. Segment and accumulator loads and stores (R88 to R98). None writes a flag. -/

namespace Sys2Proof.Machine

/-- `LDA_CSR` (R89): `a <- csr`. -/
def execLdaCsr (s : State) : Host.Outcome State Fault Refusal :=
  .next (s.setA s.csr)

/-- `STA_CSR` (R90): `csr <- a`. -/
def execStaCsr (s : State) : Host.Outcome State Fault Refusal :=
  .next (s.setCsr s.a)

/-- `LDDS` (R91): `ds <- argval`. -/
def execLdds (o : Arg) (s : State) : Host.Outcome State Fault Refusal :=
  .next (s.setDs (argval o s))

/-- `STDS` (R92): `x[r] <- ds`. -/
def execStds (r : Reg) (s : State) : Host.Outcome State Fault Refusal :=
  .next (s.setReg r s.ds)

/-- `LDSS` (R93): `ss <- argval`. -/
def execLdss (o : Arg) (s : State) : Host.Outcome State Fault Refusal :=
  .next (s.setSs (argval o s))

/-- `STSS` (R94): `x[r] <- ss`. -/
def execStss (r : Reg) (s : State) : Host.Outcome State Fault Refusal :=
  .next (s.setReg r s.ss)

/-- `LDA` (R95): `a <- argval`. -/
def execLda (o : Arg) (s : State) : Host.Outcome State Fault Refusal :=
  .next (s.setA (argval o s))

/-- `STA` (R96): `x[r] <- a`. -/
def execSta (r : Reg) (s : State) : Host.Outcome State Fault Refusal :=
  .next (s.setReg r s.a)

/-- `LDM` (R97): `a <- MemRead(memaddr, 1)`. -/
def execLdm (o : Arg) (s : State) : Host.Outcome State Fault Refusal :=
  .next (s.setA (s.readByte (memaddr o s)))

/-- `STM` (R98): `MemWrite(memaddr, 1, a)`. -/
def execStm (o : Arg) (s : State) : Host.Outcome State Fault Refusal :=
  .next (s.writeByte (memaddr o s) s.a)

end Sys2Proof.Machine
end

