-- ==== Sys2Proof/Machine/Stack.lean ====
section
/-! DEFINITION. The stack instructions PUSH, PUSH_CSR, POP, POP_CSR (R84 to R87). -/

namespace Sys2Proof.Machine

/-- `PUSH` (R84): push the argument value, read first (D9). -/
def execPush (o : Arg) (s : State) : Host.Outcome State Fault Refusal :=
  .next (s.push (argval o s))

/-- `PUSH_CSR` (R85). -/
def execPushCsr (s : State) : Host.Outcome State Fault Refusal :=
  .next (s.push s.csr)

/-- `POP` (R86): pop, then write the register; `POP SP` so keeps the popped byte. -/
def execPop (r : Reg) (s : State) : Host.Outcome State Fault Refusal :=
  .next (s.popped.setReg r s.popValue)

/-- `POP_CSR` (R87). -/
def execPopCsr (s : State) : Host.Outcome State Fault Refusal :=
  .next (s.popped.setCsr s.popValue)

end Sys2Proof.Machine
end

