-- ==== Sys2Proof/Machine/System.lean ====
section
/-! DEFINITION. System and interrupt-control instructions NOP, ENI, DSI, IRET, HLT (R121 to R125). -/

namespace Sys2Proof.Machine

/-- `NOP` (R121): nothing; the cycle has advanced the program counter. -/
def execNop (s : State) : Host.Outcome State Fault Refusal :=
  .next s

/-- `ENI` (R122): queue the interrupt enable; the cycle's last action applies it. -/
def execEni (s : State) : Host.Outcome State Fault Refusal :=
  .next (s.setIePend true)

/-- `DSI` (R123): disable interrupts at once. -/
def execDsi (s : State) : Host.Outcome State Fault Refusal :=
  .next (s.setIe false)

/-- `IRET` (R124): pop `ip`, pop `cs`, queue the interrupt enable. -/
def execIret (s : State) : Host.Outcome State Fault Refusal :=
  .next s.interruptReturn

/-- `HLT` (R125): the terminal state, with reason `HLT`. -/
def execHlt (s : State) : Host.Outcome State Fault Refusal :=
  .next (s.haltWith (some .hlt))

end Sys2Proof.Machine
end

