-- ==== Sys2Proof/Machine/Dispatch.lean ====
section
/-! DEFINITION. The meaning of each instruction, one arm per constructor. -/

namespace Sys2Proof.Machine

/-- Execute one decoded instruction; the program counter is already past it (R39). Every instruction completes (R132). -/
def exec (i : Instr) (s : State) : Host.Outcome State Fault Refusal :=
  match i with
  | .jf o => Sys2Proof.Machine.execJf o s
  | .jn o => Sys2Proof.Machine.execJn o s
  | .jcc c v => Sys2Proof.Machine.execJcc c v s
  | .calln o => Sys2Proof.Machine.execCalln o s
  | .callf o => Sys2Proof.Machine.execCallf o s
  | .ret => Sys2Proof.Machine.execRet s
  | .push o => Sys2Proof.Machine.execPush o s
  | .pushCsr => Sys2Proof.Machine.execPushCsr s
  | .pop r => Sys2Proof.Machine.execPop r s
  | .popCsr => Sys2Proof.Machine.execPopCsr s
  | .ldaCsr => Sys2Proof.Machine.execLdaCsr s
  | .staCsr => Sys2Proof.Machine.execStaCsr s
  | .ldds o => Sys2Proof.Machine.execLdds o s
  | .stds r => Sys2Proof.Machine.execStds r s
  | .ldss o => Sys2Proof.Machine.execLdss o s
  | .stss r => Sys2Proof.Machine.execStss r s
  | .lda o => Sys2Proof.Machine.execLda o s
  | .sta r => Sys2Proof.Machine.execSta r s
  | .ldm o => Sys2Proof.Machine.execLdm o s
  | .stm o => Sys2Proof.Machine.execStm o s
  | .swp r => Sys2Proof.Machine.execSwp r s
  | .incA => Sys2Proof.Machine.execIncA s
  | .decA => Sys2Proof.Machine.execDecA s
  | .inc r => Sys2Proof.Machine.execInc r s
  | .dec r => Sys2Proof.Machine.execDec r s
  | .add o => Sys2Proof.Machine.execAdd o s
  | .adc o => Sys2Proof.Machine.execAdc o s
  | .sub o => Sys2Proof.Machine.execSub o s
  | .shl => Sys2Proof.Machine.execShl s
  | .shr => Sys2Proof.Machine.execShr s
  | .sra => Sys2Proof.Machine.execSra s
  | .rol => Sys2Proof.Machine.execRol s
  | .ror => Sys2Proof.Machine.execRor s
  | .and o => Sys2Proof.Machine.execAnd o s
  | .or o => Sys2Proof.Machine.execOr o s
  | .xor o => Sys2Proof.Machine.execXor o s
  | .clr => Sys2Proof.Machine.execClr s
  | .cflags => Sys2Proof.Machine.execCflags s
  | .nop => Sys2Proof.Machine.execNop s
  | .eni => Sys2Proof.Machine.execEni s
  | .dsi => Sys2Proof.Machine.execDsi s
  | .iret => Sys2Proof.Machine.execIret s
  | .hlt => Sys2Proof.Machine.execHlt s

end Sys2Proof.Machine
end

