-- ==== Sys2Proof/Machine/Cycle.lean ====
section
/-! DEFINITION. The cycle of the core (R126), under any opcode table and any answer of the interrupt request. -/

namespace Sys2Proof.Machine

/-- The halt reason of a failed decode (R130). A decode of fetched bytes never answers `NoData`, and a successful one does not
halt. -/
def haltReasonOf : Reason → Option HaltReason
  | .invalidOpCode => some .invalidOpCode
  | .invalidArgument => some .invalidArgument
  | .noImmediate => some .noImmediate
  | .noData | .success => none

/-- How a step of a halted core stops, by the recorded reason (R131, R144, log entry 6). -/
def haltFault : Option HaltReason → Fault
  | some .invalidOpCode => .haltedInvalidOpCode
  | some .invalidArgument => .haltedInvalidArgument
  | some .noImmediate => .haltedNoImmediate
  | some .hlt | none => .halted

/-- Phase 1: fetch and decode (R38, R64). -/
def fetchDecode (T : OpTable) (s : State) : Decoded :=
  decodeWith T s.fetchBytes

/-- The number of bytes the decoder consumed (R39). -/
def consumed (T : OpTable) (s : State) : Nat :=
  s.fetchBytes.length - (fetchDecode T s).rest.length

/-- The state in which the instruction executes: the program counter advanced past it (R39) and the latch clear (R126). -/
def executeState (T : OpTable) (s : State) : State :=
  (s.countCycle.advance (consumed T s)).setIePend false

/-- The state that a decode failure leaves: the program counter advanced, halted with the reason; no interrupt check and no
latch (R130). -/
def decodeFailureState (T : OpTable) (s : State) : State :=
  (s.countCycle.advance (consumed T s)).haltWith (haltReasonOf (fetchDecode T s).reason)

/-- Phase 5: the interrupt check (R126, R127). -/
def interruptCheck (irq : Bool) (s : State) : State :=
  if s.ie && irq then s.interruptEntry else s

/-- Phase 6: the enable latch (R128). Applying it clears it, since it is false between cycles (R29, log entry 7). -/
def enableLatch (s : State) : State :=
  if s.iePend then (s.setIe true).setIePend false else s

/-- What follows the execute phase: nothing after `HLT`, else the interrupt check and the latch (R126, R135). -/
def endCycle (i : Instr) (irq : Bool) (s : State) : State :=
  if i = .hlt then s else enableLatch (interruptCheck irq s)

/-- One cycle (R126), with the opcode table and the answer of the interrupt request. A halted core has no cycle. -/
def cycle (T : OpTable) (irq : Bool) (s : State) : Host.Outcome State Fault Refusal :=
  if s.halted then .fault (haltFault s.haltReason)
  else
    match (fetchDecode T s).instr with
    | none => .next (decodeFailureState T s)
    | some i =>
      match exec i (executeState T s) with
      | .next t => .next (endCycle i irq t)
      | .fault r => .fault r
      | .refused r => .refused r

/-- A state with an instruction's two bytes stored where the next fetch reads; at 0xFFFF the window holds one byte only
(R38, log entry 15). -/
def State.placeBytes (s : State) (b0 b1 : Byte) : State :=
  if s.pc = 0xFFFF#16 then s.writeByte s.pc b0
  else (s.writeByte s.pc b0).writeByte (s.pc + 1#16) b1

end Sys2Proof.Machine
end

