-- ==== Sys2Proof/Machine/Step.lean ====
section
/-! DEFINITION. The step of the machine: one cycle under the default opcode table, with the request answer of this cycle. -/

namespace Sys2Proof.Machine

/-- One step: the cycle of R126 with the default table (R58, log entry 1) and the draw `irq_k` of this cycle (R133, log
entry 2). -/
def step (s : State) : Host.Outcome State Fault Refusal :=
  cycle OpTable.default (Config.irq s.cycleNo) s

/-- The state with an instruction word stored where `step` fetches: byte 0 at `cs ++ ip`, byte 1 after it (log entries 5
and 15). -/
def State.withFetchWord (s : State) (nbits w : Nat) : State :=
  s.placeBytes (tableWordBytes nbits w).1 (tableWordBytes nbits w).2

end Sys2Proof.Machine
end

