-- ==== Sys2Proof/Safety.lean ====
section
/-! DEFINITION. What counts as a good state, a good end of a run and an unchanged memory, in the terms the claims use. -/

namespace Sys2Proof.Machine

/-- The invariant of the machine between cycles: memory in canonical form, the enable latch clear (R29), and a halt reason
recorded exactly when the core is halted (R30, R131). -/
def State.Inv (s : State) : Prop :=
  Memory.wf s.mem = true ∧ s.iePend = false ∧ s.halted = s.haltReason.isSome

/-- The normal end of a run: halted by `HLT` (R125, R149). -/
def State.CleanHalt (s : State) : Prop :=
  s.halted = true ∧ s.haltReason = some .hlt

/-- A decode-failure halt, which counts as a fault of the run (R131). -/
def State.FailedHalt (s : State) : Prop :=
  s.halted = true ∧
    (s.haltReason = some .invalidOpCode ∨ s.haltReason = some .invalidArgument ∨ s.haltReason = some .noImmediate)

/-- Every byte of memory reads the same in both states. -/
def SameBytes (s t : State) : Prop :=
  ∀ x : Addr, t.readByte x = s.readByte x

/-- Every byte of memory but the one at `w` reads the same in both states. -/
def SameBytesExcept (w : Addr) (s t : State) : Prop :=
  ∀ x : Addr, x ≠ w → t.readByte x = s.readByte x

/-- A run of at most `k` cycles from `s` reaches no decode-failure halt (R131). -/
def SafeRun (k : Nat) (s : State) : Prop :=
  ∀ (j : Nat) (t : State), j ≤ k → Host.Core.run Sys2Proof.core j s = .next t → ¬ t.FailedHalt

/-- The next state of an outcome, if it is one. -/
def nextState? (o : Host.Outcome State Fault Refusal) : Option State :=
  match o with
  | .next t => some t
  | .fault _ => none
  | .refused _ => none

end Sys2Proof.Machine
end

