-- ==== Sys2Proof/Certificates/Slice0/Obligations.lean ====
section
/-! DEFINITION. The statements for the provers. Each docstring names the rules of the spec it formalises. -/

open Sys2Proof Sys2Proof.Machine

/-! ## The codec -/

/-- R68, the laws of the codec, under every opcode table that meets the constraints of R57: round trip, determinism,
exhaustiveness over the first byte, injectivity. -/
def Obligations.CodecLawsUnderEveryTable : Prop :=
  ∀ T : OpTable, T.Valid →
    (∀ i : Instr, ∃ bs : List Byte, encodeWith T i = some bs ∧
      ∀ tail : List Byte, decodeWith T (bs ++ tail) = { instr := some i, rest := tail, reason := .success }) ∧
    (∀ bs bs' : List Byte, bs = bs' → decodeWith T bs = decodeWith T bs') ∧
    (∀ (b : Byte) (tail : List Byte),
      ((decodeWith T (b :: tail)).reason = .success ∧ (decodeWith T (b :: tail)).instr.isSome = true) ∨
      ((decodeWith T (b :: tail)).instr = none ∧
        ((decodeWith T (b :: tail)).reason = .invalidOpCode ∨ (decodeWith T (b :: tail)).reason = .invalidArgument ∨
          (decodeWith T (b :: tail)).reason = .noImmediate))) ∧
    (∀ (i j : Instr) (bs : List Byte), encodeWith T i = some bs → encodeWith T j = some bs → i = j)

/-- The other direction of the round trip: the bytes a successful decode consumed are the encoding of the instruction it
gave, so that no two byte patterns stand for one instruction (from R63 and R64). -/
def Obligations.DecodedBytesAreTheEncoding : Prop :=
  ∀ T : OpTable, T.Valid → ∀ (bs rest : List Byte) (i : Instr),
    decodeWith T bs = { instr := some i, rest := rest, reason := .success } →
    ∃ enc : List Byte, encodeWith T i = some enc ∧ bs = enc ++ rest

/-- R65: the remainder is a suffix of the input, shrunk by the bytes consumed: 0, 1 or 2 by outcome; the source's example. -/
def Obligations.DecodeConsumption : Prop :=
  ∀ T : OpTable, T.Valid →
    (∀ bs : List Byte,
      (decodeWith T bs).rest <:+ bs ∧
      ((decodeWith T bs).reason = .noData → (decodeWith T bs).rest = bs) ∧
      ((decodeWith T bs).reason = .invalidOpCode → (decodeWith T bs).rest.length + 1 = bs.length) ∧
      ((decodeWith T bs).reason = .invalidArgument → (decodeWith T bs).rest.length + 1 = bs.length) ∧
      ((decodeWith T bs).reason = .noImmediate → bs.length = 1 ∧ (decodeWith T bs).rest = []) ∧
      (∀ i : Instr, (decodeWith T bs).instr = some i →
        (decodeWith T bs).rest.length +
          (match i.shape with | .noArg _ => 1 | .reg _ _ => 1 | .imm _ _ => 2 | .condImm _ _ _ => 2) = bs.length)) ∧
    decodeWith T [0x38#8, 0xFF#8] = { instr := none, rest := [0xFF#8], reason := .invalidArgument }

/-- The length of an instruction is a function of its first byte alone (R67, which the spec marks as derived from R64), and
an immediate is missing exactly when that length is 2 and no byte follows. -/
def Obligations.LengthFromTheFirstByte : Prop :=
  ∀ T : OpTable, T.Valid → ∀ (b0 : Byte) (tail : List Byte),
    ((decodeWith T (b0 :: tail)).reason = .success →
      (decodeWith T (b0 :: tail)).rest.length + lengthFromFirstByte T b0 = tail.length + 1) ∧
    ((decodeWith T (b0 :: tail)).reason = .noImmediate ↔ lengthFromFirstByte T b0 = 2 ∧ tail = [])

/-- R62: each of the four constructors yields an instruction exactly on the operands the rule names, and the instruction it
yields has the shape it was asked for. -/
def Obligations.ConstructorsRefuseIllFormedShapes : Prop :=
  (∀ op : Mnemonic, (createNoArg op).isSome = true ↔ op.kind = none) ∧
  (∀ (op : Mnemonic) (r : BitVec 3), (createReg op r).isSome = true ↔
    (op.kind = some .immReg ∨ op.kind = some .regOnly) ∧ r ≠ 0#3) ∧
  (∀ (op : Mnemonic) (v : Byte), (createImm op v).isSome = true ↔ op.kind = some .immReg) ∧
  (∀ (op : Mnemonic) (c : Cond) (v : Byte), (createCond op c v).isSome = true ↔ op.kind = some .cond) ∧
  (∀ (sh : Shape) (i : Instr), create sh = some i → i.shape = sh)

/-- R63: the bytes of each of the four shapes, under every table that meets R57, and the source's worked example. -/
def Obligations.EncodeFormats : Prop :=
  ∀ T : OpTable, T.Valid →
    (∀ (id : BitVec 6) (op : Mnemonic) (i : Instr), T.noarg id = some op → createNoArg op = some i →
      encodeWith T i = some [0b11#2 ++ id]) ∧
    (∀ (f : BitVec 5) (k : ArgKind) (op : Mnemonic) (r : BitVec 3) (i : Instr), T.fam f = some (op, k) →
      createReg op r = some i → encodeWith T i = some [f ++ r]) ∧
    (∀ (f : BitVec 5) (k : ArgKind) (op : Mnemonic) (v : Byte) (i : Instr), T.fam f = some (op, k) →
      createImm op v = some i → encodeWith T i = some [f ++ 0b000#3, v]) ∧
    (∀ (f : BitVec 5) (k : ArgKind) (op : Mnemonic) (c : Cond) (v : Byte) (i : Instr), T.fam f = some (op, k) →
      createCond op c v = some i → encodeWith T i = some [f ++ c.bits, v]) ∧
    encodeWith T (.dec .r1) = some [0b10110001#8]

/-- The bytes fixed by the source's worked examples decode as it says under every table that meets R57 (95_test_vectors.md
S1 to S4), and so do all bytes of its three fixed families, whatever follows them: the register ids of R24 in POP and DEC,
their refused sentinel (R64, R69), and the eight condition codes of R56, which lack their immediate when nothing follows.
Which flag a selector value names is the spec's decision D3 (log entry 12). -/
def Obligations.SourceBytesUnderEveryTable : Prop :=
  ∀ T : OpTable, T.Valid →
    decodeWith T [0xC0#8, 0xC1#8] = { instr := some .nop, rest := [0xC1#8], reason := .success } ∧
    decodeWith T [0xC1#8] = { instr := some .ret, rest := [], reason := .success } ∧
    decodeWith T [0xC4#8] = { instr := some .shl, rest := [], reason := .success } ∧
    (∀ b ∈ [0x38#8, 0xB0#8], ∀ tail : List Byte,
      decodeWith T (b :: tail) = { instr := none, rest := tail, reason := .invalidArgument }) ∧
    (∀ p ∈ [(0x39#8, Reg.r1), (0x3A#8, .r2), (0x3B#8, .r3), (0x3C#8, .r4), (0x3D#8, .lr), (0x3E#8, .sp), (0x3F#8, .bp)],
      ∀ tail : List Byte, decodeWith T (p.1 :: tail) = { instr := some (.pop p.2), rest := tail, reason := .success }) ∧
    (∀ p ∈ [(0xB1#8, Reg.r1), (0xB2#8, .r2), (0xB3#8, .r3), (0xB4#8, .r4), (0xB5#8, .lr), (0xB6#8, .sp), (0xB7#8, .bp)],
      ∀ tail : List Byte, decodeWith T (p.1 :: tail) = { instr := some (.dec p.2), rest := tail, reason := .success }) ∧
    (∀ p ∈ [(0x18#8, FlagName.zero, false), (0x19#8, .zero, true), (0x1A#8, .carry, false), (0x1B#8, .carry, true),
        (0x1C#8, .overflow, false), (0x1D#8, .overflow, true), (0x1E#8, .negative, false), (0x1F#8, .negative, true)],
      decodeWith T [p.1] = { instr := none, rest := [], reason := .noImmediate } ∧
      ∀ (v : Byte) (tail : List Byte), decodeWith T (p.1 :: v :: tail) =
        { instr := some (.jcc { flag := p.2.1, negate := p.2.2 } v), rest := tail, reason := .success })

/-- One word of each of the 24 families and of each of the 19 no-argument opcodes, written out from the tables of R58, decodes
to the instruction it stands for, and every byte from 0xD3 on is an invalid opcode. The byte values other than the source's
are the spec's decision D1 (log entry 1), the condition of code 7 its decision D3 (log entry 12). -/
def Obligations.DefaultTableWordsDecode : Prop :=
  (∀ p ∈ [([0b00000000#8, 0x34#8], Instr.jf (.imm 0x34#8)), ([0b00001010#8], .jn (.reg .r2)),
      ([0b00010100#8], .calln (.reg .r4)), ([0b00011111#8, 0x7F#8], .jcc { flag := .negative, negate := true } 0x7F#8),
      ([0b00100000#8, 0x00#8], .callf (.imm 0x00#8)), ([0b00101110#8], .push (.reg .sp)),
      ([0b00110000#8, 0x05#8], .lda (.imm 0x05#8)), ([0b00111001#8], .pop .r1),
      ([0b01000110#8], .sta .sp), ([0b01001000#8, 0x10#8], .ldm (.imm 0x10#8)),
      ([0b01010101#8], .stm (.reg .lr)), ([0b01011000#8, 0x11#8], .ldds (.imm 0x11#8))],
    (decode p.1).instr = some p.2) ∧
  (∀ p ∈ [([0b01100001#8], Instr.stds .r1), ([0b01101100#8], .ldss (.reg .r4)),
      ([0b01110111#8], .stss .bp), ([0b01111010#8], .swp .r2),
      ([0b10000001#8], .add (.reg .r1)), ([0b10001000#8, 0x01#8], .adc (.imm 0x01#8)),
      ([0b10010011#8], .sub (.reg .r3)), ([0b10011000#8, 0x0F#8], .and (.imm 0x0F#8)),
      ([0b10100010#8], .or (.reg .r2)), ([0b10101011#8], .xor (.reg .r3)),
      ([0b10110001#8], .dec .r1), ([0b10111100#8], .inc .r4)],
    (decode p.1).instr = some p.2) ∧
  (∀ p ∈ [(0b11000000#8, Instr.nop), (0b11000001#8, .ret), (0b11000010#8, .iret), (0b11000011#8, .hlt),
      (0b11000100#8, .shl), (0b11000101#8, .shr), (0b11000110#8, .sra), (0b11000111#8, .rol), (0b11001000#8, .ror),
      (0b11001001#8, .incA), (0b11001010#8, .decA), (0b11001011#8, .clr), (0b11001100#8, .cflags),
      (0b11001101#8, .pushCsr), (0b11001110#8, .popCsr), (0b11001111#8, .ldaCsr), (0b11010000#8, .staCsr),
      (0b11010001#8, .eni), (0b11010010#8, .dsi)],
    (decode [p.1]).instr = some p.2) ∧
  ∀ b : Byte, 0xD3 ≤ b.toNat → (decode [b]).reason = .invalidOpCode

/-- Segment conservation (the source's law in R75, over the algorithm of R74), under every table that meets R57. One call of the
assembler, with a deferred byte or without, neither drops nor doubles a byte, and leaves something over only from a full
segment; so the segments of a sequence, put one after the other, are its encoding, however it is cut into chunks and whatever
byte was deferred before it; and every segment of a program but its last is full. The bytes after the last written one are
not represented, and a byte still deferred at the end gets a segment (log entry 13). -/
def Obligations.SegmentsConserveTheStream : Prop :=
  ∀ T : OpTable, T.Valid →
    (∀ i : Instr, encodeWith T i = some (bytesWith T i)) ∧
    (∀ (ins : List Instr) (d : Option Byte),
      (assemble T ins d).segment ++ (assemble T ins d).deferred.toList ++ (assemble T ins d).leftover.flatMap (bytesWith T) =
        d.toList ++ ins.flatMap (bytesWith T) ∧
      (assemble T ins d).segment.length ≤ 256 ∧
      ((assemble T ins d).leftover ≠ [] ∨ (assemble T ins d).deferred ≠ none → (assemble T ins d).segment.length = 256)) ∧
    (∀ (chunks : List (List Instr)) (d : Option Byte),
      (assembleChunks T chunks d).flatten = d.toList ++ chunks.flatten.flatMap (bytesWith T) ∧
      ∀ seg ∈ assembleChunks T chunks d, seg.length ≤ 256) ∧
    (∀ ins : List Instr, ∀ seg ∈ (assembleProgram T ins).dropLast, seg.length = 256)

/-- What the segment layout is for (R75, with R38): where the segments of an assembled program stand at consecutive segment
numbers that fit in memory, and the program counter points at the first byte of one of its instructions, the fetch decodes
that instruction and consumes its bytes, also where they lie across a segment boundary. -/
def Obligations.AssembledInstructionsAreFetched : Prop :=
  ∀ T : OpTable, T.Valid → ∀ (pre post : List Instr) (i : Instr) (first : Byte) (s : State),
    first.toNat + (assembleProgram T (pre ++ i :: post)).length ≤ 256 →
    (∀ (j k : Nat) (seg : List Byte) (b : Byte), (assembleProgram T (pre ++ i :: post))[j]? = some seg → seg[k]? = some b →
      s.readByte (segAddr (first + BitVec.ofNat 8 j) (BitVec.ofNat 8 k)) = b) →
    s.pc = segAddr first 0x00#8 + BitVec.ofNat 16 (pre.flatMap (bytesWith T)).length →
    (fetchDecode T s).instr = some i ∧ consumed T s = (bytesWith T i).length

/-- The two bytes the model fetches decide what the whole window of R38 decides: the same instruction, the same reason, the
same number of bytes consumed (log entry 10; the window's end at 0xFFFF is the spec's decision D4). -/
def Obligations.FetchedBytesDecideTheWindow : Prop :=
  ∀ (T : OpTable) (s : State),
    (decodeWith T s.fetchWindow).instr = (fetchDecode T s).instr ∧
    (decodeWith T s.fetchWindow).reason = (fetchDecode T s).reason ∧
    s.fetchWindow.length - (decodeWith T s.fetchWindow).rest.length = consumed T s

/-! ## Operands and flags -/

/-- R71, with the argument value of the operand: SP and BP address the stack segment, every other form the data segment. -/
def Obligations.MemoryOperandSegment : Prop :=
  ∀ s : State,
    (∀ v : Byte, memseg (.imm v) s = s.ds) ∧
    (∀ r : Reg, memseg (.reg r) s = if r = .sp ∨ r = .bp then s.ss else s.ds) ∧
    (∀ o : Arg, memaddr o s = segAddr (memseg o s) (argval o s))

/-- The argument value of every form, and the numbers of segment addresses: `s * 256 + o`, one pair for each address (R33 and
R70, which the spec marks as derived and as decision D9; log entry 12). -/
def Obligations.ArgumentValueAndSegmentAddress : Prop :=
  (∀ (v : Byte) (s : State), argval (.imm v) s = v) ∧
  (∀ (r : Reg) (s : State), argval (.reg r) s = s.getReg r) ∧
  (∀ seg off : Byte, (segAddr seg off).toNat = seg.toNat * 256 + off.toNat) ∧
  (∀ x : Addr, ∃ seg off : Byte, segAddr seg off = x ∧ ∀ seg' off' : Byte, segAddr seg' off' = x → seg' = seg ∧ off' = off)

/-- R100: zero and negative from the result byte; carry and overflow are not `ZN`'s. -/
def Obligations.ZeroAndNegativeOfAResult : Prop :=
  ∀ (v : Byte) (f : Flags),
    ((znFlags v f).z = true ↔ v.toNat = 0) ∧
    ((znFlags v f).n = true ↔ 128 ≤ v.toNat) ∧
    (znFlags v f).c = f.c ∧ (znFlags v f).v = f.v

/-- `AddOp` (R101) by the exact sum of the operands read as numbers; the overflow by the sign test, which is signed overflow.
That the operands enter the sum zero-extended, on which the carry rests, is what the rule marks as derived (90_conflicts.md
C6). -/
def Obligations.AddOpResultAndFlags : Prop :=
  ∀ (x y : Byte) (cin : Bool),
    (addOp x y cin).1.toNat = (x.toNat + y.toNat + cin.toNat) % 256 ∧
    ((addOp x y cin).2.z = true ↔ (x.toNat + y.toNat + cin.toNat) % 256 = 0) ∧
    ((addOp x y cin).2.n = true ↔ 128 ≤ (x.toNat + y.toNat + cin.toNat) % 256) ∧
    ((addOp x y cin).2.c = true ↔ 256 ≤ x.toNat + y.toNat + cin.toNat) ∧
    ((addOp x y cin).2.v = true ↔ x.msb = y.msb ∧ (addOp x y cin).1.msb ≠ x.msb) ∧
    ((addOp x y cin).2.v = true ↔ x.toInt + y.toInt + cin.toNat < -128 ∨ 127 < x.toInt + y.toInt + cin.toNat)

/-- `SubOp` (R102): the difference, carry as borrow, and the overflow by the add test applied as it stands, so that
0x80 - 0x80 sets it and 0x7F - 0xFF does not. The operand order and that reading are the spec's decision D7 (log entry 12). -/
def Obligations.SubOpResultAndFlags : Prop :=
  (∀ x y : Byte,
    (subOp x y).1.toNat = (256 + x.toNat - y.toNat) % 256 ∧
    ((subOp x y).2.z = true ↔ x = y) ∧
    ((subOp x y).2.n = true ↔ 128 ≤ (256 + x.toNat - y.toNat) % 256) ∧
    ((subOp x y).2.c = true ↔ x.toNat < y.toNat) ∧
    ((subOp x y).2.v = true ↔ x.msb = y.msb ∧ (subOp x y).1.msb ≠ x.msb)) ∧
  (subOp 0x80#8 0x80#8).2.v = true ∧ (subOp 0x7F#8 0xFF#8).2.v = false

/-! ## Control transfer -/

/-- `JF` goes to `a` : argument value, `JN` to the argument value in the current `cs`; nothing else changes (R77, R78; the byte
values of the rules are decision D1 and not stated here). -/
def Obligations.JumpsSetTheProgramCounter : Prop :=
  ∀ (o : Arg) (s : State),
    (∃ t, exec (.jf o) s = .next t ∧ t = { s with cs := s.a, ip := argval o s } ∧ SameBytes s t) ∧
    (∃ t, exec (.jn o) s = .next t ∧ t = { s with ip := argval o s } ∧ SameBytes s t)

/-- `Jcc` jumps exactly when the selected flag, negated if the condition says so, is true; it writes nothing but `ip` (R79).
The second clause says it of the three condition bits themselves: bits 2 and 1 select zero, carry, overflow, negative in this
order, bit 0 negates (R56; the selector order is the spec's decision D3, log entry 12). -/
def Obligations.ConditionalJumpTestsItsFlag : Prop :=
  (∀ (c : Cond) (v : Byte) (s : State), ∃ t, exec (.jcc c v) s = .next t ∧
    t = { s with
      ip := if (match c.flag with
        | .zero => s.flags.z | .carry => s.flags.c | .overflow => s.flags.v | .negative => s.flags.n) = c.negate
        then s.ip else v } ∧
    SameBytes s t) ∧
  ∀ (f : BitVec 3) (v : Byte) (s : State),
    (Cond.ofBits f).bits = f ∧
    ∃ t, exec (.jcc (Cond.ofBits f) v) s = .next t ∧
      t = { s with
        ip := if Bool.xor ([s.flags.z, s.flags.c, s.flags.v, s.flags.n][f.toNat / 2]?.getD false) (f.getLsbD 0)
          then v else s.ip } ∧
      SameBytes s t

/-- The calls save `cs` in `csr` and `ip` in LR and go to the argument value read before LR is written; `CALLF` also loads
`cs` from `a`. No other register changes (R80, R81; the operand order is the spec's decision D9, log entry 12). -/
def Obligations.CallsSaveTheReturnAddress : Prop :=
  ∀ (o : Arg) (s : State),
    (∃ t, exec (.calln o) s = .next t ∧ t.csr = s.cs ∧ t.getReg .lr = s.ip ∧ t.ip = argval o s ∧
      (∀ r, r ≠ .lr → t.getReg r = s.getReg r) ∧
      t = { s with ip := t.ip, csr := t.csr, bank := t.bank } ∧ SameBytes s t) ∧
    (∃ t, exec (.callf o) s = .next t ∧ t.csr = s.cs ∧ t.getReg .lr = s.ip ∧ t.cs = s.a ∧ t.ip = argval o s ∧
      (∀ r, r ≠ .lr → t.getReg r = s.getReg r) ∧
      t = { s with cs := t.cs, ip := t.ip, csr := t.csr, bank := t.bank } ∧ SameBytes s t)

/-- R82, whole: `RET` is the byte 0xC1 under every table, and restores `cs` from `csr` and `ip` from LR, leaving everything
else, `csr` and LR among it. -/
def Obligations.ReturnThroughTheLink : Prop :=
  (∀ T : OpTable, T.Valid →
    encodeWith T .ret = some [0xC1#8] ∧
    decodeWith T [0xC1#8] = { instr := some .ret, rest := [], reason := .success }) ∧
  ∀ s : State, ∃ t, exec .ret s = .next t ∧ t = { s with cs := s.csr, ip := s.getReg .lr } ∧ SameBytes s t

/-! ## The stack -/

/-- The pushes store their byte at `ss:sp`, no other byte, and move the pair `ss ++ sp` one up, modulo 2^16; `ss` rolls exactly
when `sp` was 0xFF. No other register changes (R42, R84, R85; the wrap of `ss` is the spec's decision D11, log entry 12). -/
def Obligations.PushStoresAndAdvancesTheStack : Prop :=
  ∀ (i : Instr) (v : Byte) (s : State), ((∃ o, i = .push o ∧ v = argval o s) ∨ (i = .pushCsr ∧ v = s.csr)) →
    ∃ t, exec i s = .next t ∧
      t.readByte s.pushAddr = v ∧ SameBytesExcept s.pushAddr s t ∧
      s.pushAddr = segAddr s.ss (s.getReg .sp) ∧
      segAddr t.ss (t.getReg .sp) = s.pushAddr + 1#16 ∧
      t.ss = (if s.getReg .sp = 0xFF#8 then s.ss + 1#8 else s.ss) ∧
      (∀ r, r ≠ .sp → t.getReg r = s.getReg r) ∧
      t = { s with ss := t.ss, bank := t.bank, mem := t.mem }

/-- The pops move `ss ++ sp` one down, modulo 2^16, and read there; `POP SP` keeps the popped byte and the roll of `ss`. No
other register and no byte of memory changes (R43, R86, R87; the wrap of `ss` is the spec's decision D11, log entry 12). -/
def Obligations.PopReadsBelowTheStackPointer : Prop :=
  ∀ s : State,
    (∀ r : Reg, ∃ t, exec (.pop r) s = .next t ∧
      t.getReg r = s.readByte (segAddr s.ss (s.getReg .sp) - 1#16) ∧
      (r ≠ .sp → t.getReg .sp = s.getReg .sp - 1#8) ∧
      segAddr t.ss (s.getReg .sp - 1#8) = segAddr s.ss (s.getReg .sp) - 1#16 ∧
      (∀ q, q ≠ r → q ≠ .sp → t.getReg q = s.getReg q) ∧
      t = { s with ss := t.ss, bank := t.bank } ∧ SameBytes s t) ∧
    (∃ t, exec .popCsr s = .next t ∧
      t.csr = s.readByte (segAddr s.ss (s.getReg .sp) - 1#16) ∧
      segAddr t.ss (t.getReg .sp) = segAddr s.ss (s.getReg .sp) - 1#16 ∧
      (∀ q, q ≠ .sp → t.getReg q = s.getReg q) ∧
      t = { s with ss := t.ss, csr := t.csr, bank := t.bank } ∧ SameBytes s t)

/-- A pop right after a push gives the pushed byte back and restores the stack pointer, across a segment boundary too (from
R42, R43, R84 and R86). -/
def Obligations.PopUndoesPush : Prop :=
  ∀ (o : Arg) (r : Reg) (s : State), ∃ t u, exec (.push o) s = .next t ∧ exec (.pop r) t = .next u ∧
    u.getReg r = argval o s ∧ u.ss = s.ss ∧ ∀ q, q ≠ r → u.getReg q = s.getReg q

/-! ## Loads and stores -/

/-- The loads of named registers, each writing its one register and nothing else: `LDA_CSR`, `STA_CSR`, `LDDS`, `LDSS`, `LDA`
(R89, R90, R91, R93, R95; the directions are the spec's decision D6, log entry 12). -/
def Obligations.LoadsOfNamedRegisters : Prop :=
  ∀ (o : Arg) (s : State),
    (∃ t, exec .ldaCsr s = .next t ∧ t = { s with a := s.csr } ∧ SameBytes s t) ∧
    (∃ t, exec .staCsr s = .next t ∧ t = { s with csr := s.a } ∧ SameBytes s t) ∧
    (∃ t, exec (.ldds o) s = .next t ∧ t = { s with ds := argval o s } ∧ SameBytes s t) ∧
    (∃ t, exec (.ldss o) s = .next t ∧ t = { s with ss := argval o s } ∧ SameBytes s t) ∧
    (∃ t, exec (.lda o) s = .next t ∧ t = { s with a := argval o s } ∧ SameBytes s t)

/-- The stores into a bank register, `STDS`, `STSS`, `STA`: that register gets the byte, every other register stays, and `ss`
does not roll when the register is SP (R44, R92, R94, R96). -/
def Obligations.StoresIntoBankRegisters : Prop :=
  ∀ (i : Instr) (r : Reg) (v : Byte) (s : State),
    ((i = .stds r ∧ v = s.ds) ∨ (i = .stss r ∧ v = s.ss) ∨ (i = .sta r ∧ v = s.a)) →
    ∃ t, exec i s = .next t ∧ t.getReg r = v ∧ (∀ q, q ≠ r → t.getReg q = s.getReg q) ∧
      t = { s with bank := t.bank } ∧ SameBytes s t

/-- `LDM` loads `a` from the memory operand and `STM` stores `a` there, one byte; no flag and no other register changes (R41,
R97, R98; the directions are the spec's decision D6 and 90_conflicts.md C5, log entry 12). -/
def Obligations.MemoryLoadAndStore : Prop :=
  ∀ (o : Arg) (s : State),
    (∃ t, exec (.ldm o) s = .next t ∧ t = { s with a := s.readByte (memaddr o s) } ∧ SameBytes s t) ∧
    (∃ t, exec (.stm o) s = .next t ∧ t.readByte (memaddr o s) = s.a ∧ SameBytesExcept (memaddr o s) s t ∧
      t = { s with mem := t.mem })

/-! ## The execute stage -/

/-- `ADD`, `ADC` (the carry flag as carry-in), `INC_A` and `INC`: the result and the four flags of `AddOp`, in `a` or in the
register; nothing else changes (R104, R106, R108, R109; the byte values of the rules are decision D1 and not stated). -/
def Obligations.AdditionsWriteResultAndFlags : Prop :=
  ∀ s : State,
    (∀ o, ∃ t, exec (.add o) s = .next t ∧
      t = { s with a := (addOp s.a (argval o s) false).1, flags := (addOp s.a (argval o s) false).2 } ∧ SameBytes s t) ∧
    (∀ o, ∃ t, exec (.adc o) s = .next t ∧
      t = { s with a := (addOp s.a (argval o s) s.flags.c).1, flags := (addOp s.a (argval o s) s.flags.c).2 } ∧ SameBytes s t) ∧
    (∃ t, exec .incA s = .next t ∧
      t = { s with a := (addOp s.a 1#8 false).1, flags := (addOp s.a 1#8 false).2 } ∧ SameBytes s t) ∧
    (∀ r, ∃ t, exec (.inc r) s = .next t ∧
      t.getReg r = (addOp (s.getReg r) 1#8 false).1 ∧ (∀ q, q ≠ r → t.getReg q = s.getReg q) ∧
      t = { s with bank := t.bank, flags := (addOp (s.getReg r) 1#8 false).2 } ∧ SameBytes s t)

/-- `SUB`, `DEC_A` and `DEC`: the result and the four flags of `SubOp`, in `a` or in the register; nothing else changes (R105,
R107, R110; decision D7, log entry 12). -/
def Obligations.SubtractionsWriteResultAndFlags : Prop :=
  ∀ s : State,
    (∀ o, ∃ t, exec (.sub o) s = .next t ∧
      t = { s with a := (subOp s.a (argval o s)).1, flags := (subOp s.a (argval o s)).2 } ∧ SameBytes s t) ∧
    (∃ t, exec .decA s = .next t ∧
      t = { s with a := (subOp s.a 1#8).1, flags := (subOp s.a 1#8).2 } ∧ SameBytes s t) ∧
    (∀ r, ∃ t, exec (.dec r) s = .next t ∧
      t.getReg r = (subOp (s.getReg r) 1#8).1 ∧ (∀ q, q ≠ r → t.getReg q = s.getReg q) ∧
      t = { s with bank := t.bank, flags := (subOp (s.getReg r) 1#8).2 } ∧ SameBytes s t)

/-- R111, whole: `SHL` is the byte 0xC4 under every table; it doubles `a` modulo 256, puts its old bit 7 in carry, sets zero
and negative from the result and leaves overflow and everything else. -/
def Obligations.ShiftLeft : Prop :=
  (∀ T : OpTable, T.Valid →
    encodeWith T .shl = some [0xC4#8] ∧
    decodeWith T [0xC4#8] = { instr := some .shl, rest := [], reason := .success }) ∧
  ∀ s : State, ∃ t, exec .shl s = .next t ∧
    t.a.toNat = 2 * s.a.toNat % 256 ∧ (t.flags.c = true ↔ 128 ≤ s.a.toNat) ∧
    (t.flags.z = true ↔ t.a.toNat = 0) ∧ (t.flags.n = true ↔ 128 ≤ t.a.toNat) ∧ t.flags.v = s.flags.v ∧
    t = { s with a := t.a, flags := t.flags } ∧ SameBytes s t

/-- `SHR` halves `a` read as unsigned and `SRA` halves it read as two's complement, rounding down; both clear carry, set zero
and negative from the result and leave overflow and everything else (R112, R113; zero and negative are the spec's decision D8,
log entry 12). -/
def Obligations.ShiftsRight : Prop :=
  ∀ s : State,
    (∃ t, exec .shr s = .next t ∧ t.a.toNat = s.a.toNat / 2 ∧ t.flags.c = false ∧
      (t.flags.z = true ↔ t.a.toNat = 0) ∧ t.flags.n = false ∧ t.flags.v = s.flags.v ∧
      t = { s with a := t.a, flags := t.flags } ∧ SameBytes s t) ∧
    (∃ t, exec .sra s = .next t ∧ t.a.toInt = s.a.toInt / 2 ∧ t.flags.c = false ∧
      (t.flags.z = true ↔ t.a.toNat = 0) ∧ (t.flags.n = true ↔ 128 ≤ s.a.toNat) ∧ t.flags.v = s.flags.v ∧
      t = { s with a := t.a, flags := t.flags } ∧ SameBytes s t)

/-- `ROL` and `ROR` rotate the eight bits by one, not through carry; carry and overflow stay (R114, R115; zero and negative are
the spec's decision D8, log entry 12). -/
def Obligations.Rotates : Prop :=
  ∀ s : State,
    (∃ t, exec .rol s = .next t ∧ t.a = s.a.rotateLeft 1 ∧
      (t.flags.z = true ↔ s.a.toNat = 0) ∧ (t.flags.n = true ↔ 128 ≤ t.a.toNat) ∧
      t.flags.c = s.flags.c ∧ t.flags.v = s.flags.v ∧
      t = { s with a := t.a, flags := t.flags } ∧ SameBytes s t) ∧
    (∃ t, exec .ror s = .next t ∧ t.a = s.a.rotateRight 1 ∧
      (t.flags.z = true ↔ s.a.toNat = 0) ∧ (t.flags.n = true ↔ s.a.toNat % 2 = 1) ∧
      t.flags.c = s.flags.c ∧ t.flags.v = s.flags.v ∧
      t = { s with a := t.a, flags := t.flags } ∧ SameBytes s t)

/-- `AND`, `OR` and `XOR`, bit by bit; overflow is cleared, and carry is cleared by `AND` and `OR` and SET by `XOR` (R116, R117,
R118; zero and negative are the spec's decision D8, log entry 12). -/
def Obligations.LogicOperations : Prop :=
  ∀ (o : Arg) (s : State),
    (∃ t, exec (.and o) s = .next t ∧ (∀ k, t.a.getLsbD k = (s.a.getLsbD k && (argval o s).getLsbD k)) ∧
      (t.flags.z = true ↔ t.a.toNat = 0) ∧ (t.flags.n = true ↔ 128 ≤ t.a.toNat) ∧ t.flags.c = false ∧ t.flags.v = false ∧
      t = { s with a := t.a, flags := t.flags } ∧ SameBytes s t) ∧
    (∃ t, exec (.or o) s = .next t ∧ (∀ k, t.a.getLsbD k = (s.a.getLsbD k || (argval o s).getLsbD k)) ∧
      (t.flags.z = true ↔ t.a.toNat = 0) ∧ (t.flags.n = true ↔ 128 ≤ t.a.toNat) ∧ t.flags.c = false ∧ t.flags.v = false ∧
      t = { s with a := t.a, flags := t.flags } ∧ SameBytes s t) ∧
    (∃ t, exec (.xor o) s = .next t ∧ (∀ k, t.a.getLsbD k = Bool.xor (s.a.getLsbD k) ((argval o s).getLsbD k)) ∧
      (t.flags.z = true ↔ t.a.toNat = 0) ∧ (t.flags.n = true ↔ 128 ≤ t.a.toNat) ∧ t.flags.c = true ∧ t.flags.v = false ∧
      t = { s with a := t.a, flags := t.flags } ∧ SameBytes s t)

/-- `SWP` exchanges `a` and the register, flags unchanged, and rolls no segment when the register is SP (R44, R103). -/
def Obligations.SwapExchanges : Prop :=
  ∀ (r : Reg) (s : State), ∃ t, exec (.swp r) s = .next t ∧ t.a = s.getReg r ∧ t.getReg r = s.a ∧
    (∀ q, q ≠ r → t.getReg q = s.getReg q) ∧ t = { s with a := t.a, bank := t.bank } ∧ SameBytes s t

/-- `CLR` zeroes `a` and no flag, `CFLAGS` clears the four flags and nothing else (R119, R120; that `CLR` leaves the flags is
the spec's decision D8, log entry 12). -/
def Obligations.Clears : Prop :=
  ∀ s : State,
    (∃ t, exec .clr s = .next t ∧ t = { s with a := 0#8 } ∧ SameBytes s t) ∧
    (∃ t, exec .cflags s = .next t ∧ t = { s with flags := { z := false, c := false, v := false, n := false } } ∧
      SameBytes s t)

/-! ## System instructions -/

/-- `NOP` changes nothing, `ENI` sets the latch only, `DSI` clears `ie` only, `HLT` halts with its reason only (R121, R122, R123,
R125; the recorded reason is the spec's decision D13, log entry 8). -/
def Obligations.SystemInstructions : Prop :=
  ∀ s : State,
    (∃ t, exec .nop s = .next t ∧ t = s ∧ SameBytes s t) ∧
    (∃ t, exec .eni s = .next t ∧ t = { s with iePend := true } ∧ SameBytes s t) ∧
    (∃ t, exec .dsi s = .next t ∧ t = { s with ie := false } ∧ SameBytes s t) ∧
    (∃ t, exec .hlt s = .next t ∧ t = { s with halted := true, haltReason := some .hlt } ∧ SameBytes s t)

/-- `IRET` pops `ip`, then `cs`, moving `ss ++ sp` two down, and sets the latch; the flags, `ie` and every other register stay
(R124; its byte value is decision D1 and not stated). -/
def Obligations.ReturnFromInterrupt : Prop :=
  ∀ s : State, ∃ t, exec .iret s = .next t ∧
    t.ip = s.readByte (segAddr s.ss (s.getReg .sp) - 1#16) ∧
    t.cs = s.readByte (segAddr s.ss (s.getReg .sp) - 2#16) ∧
    segAddr t.ss (t.getReg .sp) = segAddr s.ss (s.getReg .sp) - 2#16 ∧
    t.iePend = true ∧ (∀ q, q ≠ .sp → t.getReg q = s.getReg q) ∧
    t = { s with cs := t.cs, ip := t.ip, ss := t.ss, bank := t.bank, iePend := t.iePend } ∧ SameBytes s t

/-! ## The cycle, halts and the interrupt controller -/

/-- A step of a running core whose fetched bytes decode to `i` is `exec i` on the state with the program counter advanced past
the instruction, the latch clear and the cycle counted, followed by the interrupt check and the latch unless `i` is `HLT`
(R39, R126; the counted cycle is log entry 9, the draw log entry 2, the default table log entry 1). -/
def Obligations.StepRunsTheDecodedInstruction : Prop :=
  ∀ (s : State) (i : Instr), s.halted = false → (decode s.fetchBytes).instr = some i →
    let n := s.fetchBytes.length - (decode s.fetchBytes).rest.length
    let u : State := { s with
      cs := (s.pc + BitVec.ofNat 16 n).extractLsb' 8 8
      ip := (s.pc + BitVec.ofNat 16 n).extractLsb' 0 8
      iePend := false
      cycleNo := s.cycleNo + 1 }
    (∀ t, exec i u = .next t →
      step s = .next (if i = .hlt then t else enableLatch (interruptCheck (Config.irq s.cycleNo) t))) ∧
    (∀ f, exec i u = .fault f → step s = .fault f) ∧
    (∀ r, exec i u = .refused r → step s = .refused r)

/-- A decode failure halts the running core: the program counter advances by one, the reason is recorded, and nothing else
changes: no interrupt check, no latch, no memory write (R130; the recorded reason is the spec's decision D13, the absent
interrupt check D10, the counted cycle log entry 9). -/
def Obligations.DecodeFailureHalts : Prop :=
  ∀ (T : OpTable) (irq : Bool) (s : State), T.Valid → s.halted = false → (fetchDecode T s).instr = none →
    ∃ t, cycle T irq s = .next t ∧ t.halted = true ∧
      (((fetchDecode T s).reason = .invalidOpCode ∧ t.haltReason = some .invalidOpCode) ∨
       ((fetchDecode T s).reason = .invalidArgument ∧ t.haltReason = some .invalidArgument) ∨
       ((fetchDecode T s).reason = .noImmediate ∧ t.haltReason = some .noImmediate)) ∧
      t.pc = s.pc + 1#16 ∧
      t = { s with cs := t.cs, ip := t.ip, halted := true, haltReason := t.haltReason, cycleNo := s.cycleNo + 1 } ∧
      SameBytes s t

/-- Which bytes halt a step and with which reason, under the default table (R69, R130; byte values D1 and window D4, log
entries 1 and 10): 0xD3 to 0xFF are invalid opcodes; a RegOnly byte with field 0 is an invalid argument; a byte that announces
an immediate at 0xFFFF lacks it; every other byte runs an instruction. -/
def Obligations.CausesOfDecodeFailure : Prop :=
  ∀ s : State, s.halted = false →
    let b := (s.readByte s.pc).toNat
    if 0xD3 ≤ b then
      ∃ t, step s = .next t ∧ t.halted = true ∧ t.haltReason = some .invalidOpCode
    else if b ∈ [0x38, 0x40, 0x60, 0x70, 0x78, 0xB0, 0xB8] then
      ∃ t, step s = .next t ∧ t.halted = true ∧ t.haltReason = some .invalidArgument
    else if s.pc = 0xFFFF#16 ∧ ((0x18 ≤ b ∧ b ≤ 0x1F) ∨ (b < 0xC0 ∧ b % 8 = 0)) then
      ∃ t, step s = .next t ∧ t.halted = true ∧ t.haltReason = some .noImmediate
    else ∃ i, (decode s.fetchBytes).instr = some i

/-- A halted core has no further cycle, whatever the request (R126, R144): its step stops, with a fault that names a
decode-failure halt as such (that the model's step answers a fault there is log entry 6). -/
def Obligations.HaltedCoreHasNoCycle : Prop :=
  ∀ (T : OpTable) (irq : Bool) (s : State), s.halted = true →
    (∃ f, cycle T irq s = .fault f) ∧
    (s.CleanHalt → cycle T irq s = .fault .halted) ∧
    (s.FailedHalt → cycle T irq s ≠ .fault .halted)

/-- R132: a decoded instruction always completes, and the cycle of a running core never faults and never refuses: the only
error is the decode-failure halt. -/
def Obligations.EveryDecodedInstructionCompletes : Prop :=
  (∀ (i : Instr) (s : State), ∃ t, exec i s = .next t) ∧
  (∀ (T : OpTable) (irq : Bool) (s : State), s.halted = false → ∃ t, cycle T irq s = .next t ∧
    (t.FailedHalt → (fetchDecode T s).instr = none))

/-- The core halts only by `HLT` or a decode failure: a cycle that halts it failed to decode or executed `HLT` (R30; the recorded
reason is the spec's decision D13). -/
def Obligations.OnlyHltAndDecodeFailuresHalt : Prop :=
  ∀ (T : OpTable) (irq : Bool) (s t : State), cycle T irq s = .next t →
    (t.halted = true ↔ (fetchDecode T s).instr = none ∨ (fetchDecode T s).instr = some .hlt) ∧
    ((fetchDecode T s).instr = some .hlt → t.haltReason = some .hlt)

/-- Interrupt entry pushes `cs`, then `ip`, clears `ie` and goes where the vector slot points AFTER the two pushes; no other
byte of memory, no other register and no flag changes (R127, whose read order the spec derives). -/
def Obligations.InterruptEntrySavesAndVectors : Prop :=
  ∀ s : State,
    s.interruptEntry.readByte s.pushAddr = s.cs ∧
    s.interruptEntry.readByte (s.pushAddr + 1#16) = s.ip ∧
    (∀ x, x ≠ s.pushAddr → x ≠ s.pushAddr + 1#16 → s.interruptEntry.readByte x = s.readByte x) ∧
    segAddr s.interruptEntry.ss (s.interruptEntry.getReg .sp) = s.pushAddr + 2#16 ∧
    (∀ r, r ≠ .sp → s.interruptEntry.getReg r = s.getReg r) ∧
    s.interruptEntry.ie = false ∧
    s.interruptEntry.cs = s.interruptEntry.readByte 0xFFFE#16 ∧
    s.interruptEntry.ip = s.interruptEntry.readByte 0xFFFF#16 ∧
    s.interruptEntry = { s with
      cs := s.interruptEntry.cs, ip := s.interruptEntry.ip, ss := s.interruptEntry.ss, bank := s.interruptEntry.bank,
      ie := false, mem := s.interruptEntry.mem }

/-- An interrupt is taken exactly when `ie` is set after the instruction and the request is asserted, after every instruction
but `HLT`; the latch comes last (R126, R135; the time of the sample is the spec's decision D10, log entry 2; that the latch
clears itself is log entry 7). -/
def Obligations.InterruptCheckAfterTheInstruction : Prop :=
  ∀ (T : OpTable) (irq : Bool) (s u : State) (i : Instr), s.halted = false → (fetchDecode T s).instr = some i →
    exec i (executeState T s) = .next u →
    if i = .hlt then cycle T irq s = .next u
    else ∃ t, cycle T irq s = .next t ∧
      ((u.ie = true ∧ irq = true → t = { u.interruptEntry with ie := u.iePend, iePend := false }) ∧
       (¬ (u.ie = true ∧ irq = true) → t = { u with ie := u.ie || u.iePend, iePend := false }))

/-- `ENI` and `IRET` set the latch, the cycle's last action makes `ie` true, and the interrupt check of that cycle sees `ie` as
it was before; no other instruction leaves the latch set (R128; that the last action also clears the latch is log entry 7,
inferred from R29). -/
def Obligations.EnableLatchIsTheLastAction : Prop :=
  ∀ (T : OpTable) (irq : Bool) (s u : State) (i : Instr), s.halted = false → (fetchDecode T s).instr = some i →
    exec i (executeState T s) = .next u →
    (u.iePend = true ↔ i = .eni ∨ i = .iret) ∧
    (i = .eni ∨ i = .iret → ∃ t, cycle T irq s = .next t ∧ t.ie = true ∧
      (s.ie = true ∧ irq = true → t = { u.interruptEntry with ie := true, iePend := false }) ∧
      (¬ (s.ie = true ∧ irq = true) → t = { u with ie := true, iePend := false }))

/-- The interrupt-enable delay: an `ENI` executed with `ie` false takes no interrupt in its cycle, whatever the request, and
leaves `ie` true for the next; the `DSI` cycle takes none at all (R150, which the spec derives from R126 and R128; R123; that
the latch is clear after the cycle is log entry 7, inferred from R29). -/
def Obligations.EnableIsDelayedByOneCycle : Prop :=
  ∀ (T : OpTable) (irq : Bool) (s : State), s.halted = false →
    ((fetchDecode T s).instr = some .eni → s.ie = false →
      cycle T irq s = .next { executeState T s with ie := true }) ∧
    ((fetchDecode T s).instr = some .dsi →
      cycle T irq s = .next { executeState T s with ie := false })

/-- `ENI` or `IRET` with `ie` already true and the request asserted: the interrupt is taken and the handler starts with `ie`
true (R129, which the spec derives; that the latch is clear after the cycle is log entry 7, inferred from R29). -/
def Obligations.LatchAfterEntryLeavesInterruptsEnabled : Prop :=
  ∀ (T : OpTable) (s : State) (i : Instr), s.halted = false → s.ie = true → (i = .eni ∨ i = .iret) →
    (fetchDecode T s).instr = some i →
    ∃ t, cycle T true s = .next t ∧ t.ie = true ∧ t.iePend = false ∧
      t.cs = t.readByte 0xFFFE#16 ∧ t.ip = t.readByte 0xFFFF#16

/-- An entry whose pushes overwrite the vector slot goes where the overwritten bytes say (R138, which the spec derives). -/
def Obligations.EntryOverTheVectorSlot : Prop :=
  ∀ s : State, s.ss = 0xFF#8 →
    (s.getReg .sp = 0xFE#8 → s.interruptEntry.cs = s.cs ∧ s.interruptEntry.ip = s.ip ∧
      s.interruptEntry.ss = 0x00#8 ∧ s.interruptEntry.getReg .sp = 0x00#8) ∧
    (s.getReg .sp = 0xFD#8 → s.interruptEntry.cs = s.ip ∧ s.interruptEntry.ip = s.readByte 0xFFFF#16)

/-- `IRET` undoes interrupt entry: after the two, the program counter, the stack segment and every register are what they were,
the latch is set and `ie` is still clear (from R124 and R127). -/
def Obligations.ReturnUndoesInterruptEntry : Prop :=
  ∀ s : State, ∃ t, exec .iret s.interruptEntry = .next t ∧
    t = { s with ie := false, iePend := true, mem := t.mem } ∧
    (∀ x, x ≠ s.pushAddr → x ≠ s.pushAddr + 1#16 → t.readByte x = s.readByte x)

/-- With interrupts disabled the request input cannot be observed: the cycle is the same whatever it answers (from R126 and
R134, which the spec derives). -/
def Obligations.RequestIsMaskedByInterruptEnable : Prop :=
  ∀ (T : OpTable) (s : State), s.ie = false → cycle T true s = cycle T false s

/-! ## Rules over the whole instruction set -/

/-- Every step keeps the invariant of the machine: memory canonical (the model's form, log entry 3), the latch clear between
cycles (R29, log entry 7), a halt reason recorded exactly when halted (R30, R131; the recorded reason is the spec's decision
D13, and that none is recorded while the core runs is log entry 8). -/
def Obligations.EveryStepKeepsTheMachineInvariant : Prop :=
  ∀ s t : State, s.Inv → step s = .next t → t.Inv

/-- The invariant holds of the model's reset state, and of the reset from every start address and canonical memory image (R18,
R146; the latch clear is the spec's decision D17). Two parts of it are the model's own choice: that no halt reason is recorded
while the core runs (log entry 8), and the canonical form with its blank byte and the empty memory of the reset state (log
entry 3). -/
def Obligations.ResetMeetsTheMachineInvariant : Prop :=
  State.reset.Inv ∧ ∀ (start : Addr) (mem0 : Memory), Memory.wf mem0 = true → (State.boot start mem0).Inv

/-- The state that reset leaves, for every start address and memory image (R18, R146; the split of `start` is the spec's
decision D12, `ie` and `halted` D17, memory D19), and that the model's reset state is the reset from one such pair (which pair
is log entries 3 and 4). -/
def Obligations.StateAfterReset : Prop :=
  (∃ (start : Addr) (mem0 : Memory), Memory.wf mem0 = true ∧ State.reset = State.boot start mem0) ∧
  ∀ (start : Addr) (mem0 : Memory),
    (State.boot start mem0).pc = start ∧
    (State.boot start mem0).a = 0#8 ∧ (State.boot start mem0).ds = 0#8 ∧ (State.boot start mem0).ss = 0#8 ∧
    (State.boot start mem0).csr = 0#8 ∧ (∀ r, (State.boot start mem0).getReg r = 0#8) ∧
    (State.boot start mem0).flags = { z := false, c := false, v := false, n := false } ∧
    (State.boot start mem0).ie = false ∧ (State.boot start mem0).iePend = false ∧
    (State.boot start mem0).halted = false ∧ (State.boot start mem0).mem = mem0

/-- Which instructions write which flags (R26): overflow only the arithmetic and logic instructions and `CFLAGS`; carry those
and the three shifts; zero and negative those and the rotates. Interrupt entry writes none. (The writers of zero and negative
are in part the spec's decision D8, log entry 12.) -/
def Obligations.FlagsChangeOnlyByTheirWriters : Prop :=
  (∀ (i : Instr) (s t : State), exec i s = .next t →
    let arith := (∃ o, i = .add o ∨ i = .adc o ∨ i = .sub o ∨ i = .and o ∨ i = .or o ∨ i = .xor o) ∨
      (∃ r, i = .inc r ∨ i = .dec r) ∨ i = .incA ∨ i = .decA ∨ i = .cflags
    let shift := i = .shl ∨ i = .shr ∨ i = .sra
    let rotate := i = .rol ∨ i = .ror
    (¬ arith → t.flags.v = s.flags.v) ∧
    (¬ (arith ∨ shift) → t.flags.c = s.flags.c) ∧
    (¬ (arith ∨ shift ∨ rotate) → t.flags.z = s.flags.z ∧ t.flags.n = s.flags.n)) ∧
  ∀ s : State, s.interruptEntry.flags = s.flags

/-- R23: `csr` is written by `CALLN` and `CALLF` (with the old `cs`), `STA_CSR` and `POP_CSR`, and by nothing else, interrupt entry
included; it is read by `RET`, `LDA_CSR` and `PUSH_CSR`, and no other instruction's effect depends on it. -/
def Obligations.SavedCodeSegmentWritersAndReaders : Prop :=
  (∀ (i : Instr) (s t : State), exec i s = .next t →
    ((∃ o, i = .calln o ∨ i = .callf o) → t.csr = s.cs) ∧
    (i = .staCsr → t.csr = s.a) ∧
    (i = .popCsr → t.csr = s.popValue) ∧
    (¬ (∃ o, i = .calln o ∨ i = .callf o) → i ≠ .staCsr → i ≠ .popCsr → t.csr = s.csr)) ∧
  (∀ s : State, s.interruptEntry.csr = s.csr) ∧
  (∀ (i : Instr) (s t : State) (v : Byte), exec i s = .next t → i ≠ .ret → i ≠ .ldaCsr → i ≠ .pushCsr →
    ∃ t', exec i { s with csr := v } = .next t' ∧ t' = { t with csr := t'.csr }) ∧
  (∀ s : State, (∃ t, exec .ret s = .next t ∧ t.cs = s.csr) ∧ (∃ t, exec .ldaCsr s = .next t ∧ t.a = s.csr) ∧
    (∃ t, exec .pushCsr s = .next t ∧ t.readByte s.pushAddr = s.csr))

/-- Which instructions write the segment registers (R21, its writers): `cs` the far transfers and `IRET`; `ds` only `LDDS`; `ss`
only `LDSS` and the pushes and pops, so that no other write of SP rolls it (R44, which the spec derives). -/
def Obligations.SegmentRegistersChangeOnlyByTheirWriters : Prop :=
  ∀ (i : Instr) (s t : State), exec i s = .next t →
    (¬ (∃ o, i = .jf o ∨ i = .callf o) → i ≠ .ret → i ≠ .iret → t.cs = s.cs) ∧
    (¬ (∃ o, i = .ldds o) → t.ds = s.ds) ∧
    (¬ (∃ o, i = .ldss o ∨ i = .push o) → ¬ (∃ r, i = .pop r) → i ≠ .pushCsr → i ≠ .popCsr → i ≠ .iret → t.ss = s.ss)

/-- Which instructions write a bank register (R25): the one a RegOnly instruction names, LR by the calls, SP by the stack
instructions and `IRET`; every other register stays. -/
def Obligations.BankRegistersChangeOnlyByTheirWriters : Prop :=
  ∀ (i : Instr) (s t : State) (q : Reg), exec i s = .next t →
    ¬ (i = .pop q ∨ i = .sta q ∨ i = .stds q ∨ i = .stss q ∨ i = .swp q ∨ i = .inc q ∨ i = .dec q) →
    ¬ (q = .lr ∧ ∃ o, i = .calln o ∨ i = .callf o) →
    ¬ (q = .sp ∧ ((∃ o, i = .push o) ∨ (∃ r, i = .pop r) ∨ i = .pushCsr ∨ i = .popCsr ∨ i = .iret)) →
    t.getReg q = s.getReg q

/-- Only `STM`, `PUSH` and `PUSH_CSR` store to memory, each one byte at the address its operand gives; every other instruction
leaves every byte (from R35, R88, R84, R85 and R98). -/
def Obligations.MemoryChangesOnlyByStores : Prop :=
  ∀ (i : Instr) (s t : State), exec i s = .next t →
    (∀ o, i = .stm o → SameBytesExcept (memaddr o s) s t) ∧
    ((∃ o, i = .push o) ∨ i = .pushCsr → SameBytesExcept s.pushAddr s t) ∧
    (¬ (∃ o, i = .stm o ∨ i = .push o) → i ≠ .pushCsr → SameBytes s t)

/-- R28: `ie` is set only by the latch at the end of a cycle, cleared by `DSI` and by interrupt entry, and read by the interrupt
check of every cycle that does not halt. -/
def Obligations.InterruptEnableWriters : Prop :=
  (∀ (i : Instr) (s t : State), exec i s = .next t → t.ie = (if i = .dsi then false else s.ie)) ∧
  (∀ s : State, s.interruptEntry.ie = false) ∧
  (∀ s : State, (s.iePend = true → (enableLatch s).ie = true) ∧ (s.iePend = false → (enableLatch s).ie = s.ie)) ∧
  (∀ (T : OpTable) (irq : Bool) (s t : State), cycle T irq s = .next t → s.ie = false → t.ie = true →
    (fetchDecode T s).instr = some .eni ∨ (fetchDecode T s).instr = some .iret) ∧
  (∀ (T : OpTable) (irq : Bool) (s u : State) (i : Instr), s.halted = false → (fetchDecode T s).instr = some i →
    exec i (executeState T s) = .next u → i ≠ .hlt →
    cycle T irq s = .next (enableLatch (if u.ie = true ∧ irq = true then u.interruptEntry else u)))

/-- A store is seen by the next fetch: bytes written where the program counter points are the bytes fetched, at every place but
the last byte of memory, where the window holds one byte only (R50, which the spec derives; decision D4; log entry 15 for the
placing of an instruction). -/
def Obligations.StoredBytesAreFetched : Prop :=
  ∀ (s : State) (b0 b1 : Byte),
    (s.pc ≠ 0xFFFF#16 → (s.placeBytes b0 b1).fetchBytes = [b0, b1]) ∧
    (s.pc = 0xFFFF#16 → (s.placeBytes b0 b1).fetchBytes = [b0]) ∧
    ∀ x, x ≠ s.pc → x ≠ s.pc + 1#16 → (s.placeBytes b0 b1).readByte x = s.readByte x
end

