-- ==== Sys2Proof/Laws/Codec.lean ====
section
/-! SUPPORT. The fields of the codec, the small lemmas of the assembler, and that the default opcode table is valid. -/

namespace Sys2Proof

@[simp] theorem Reg.ofBits_bits (r : Reg) : Reg.ofBits r.bits = some r := by
  cases r <;> rfl

@[simp] theorem Reg.bits_ne_zero (r : Reg) : r.bits ≠ 0#3 := by
  cases r <;> decide

/-- A register field other than the sentinel names the register with that id (R24). -/
theorem Reg.bits_of_ofBits {b : BitVec 3} {r : Reg} (h : Reg.ofBits b = some r) : r.bits = b := by
  revert h
  revert b
  cases r <;> decide

@[simp] theorem FlagName.ofBits_bits (n : FlagName) : FlagName.ofBits n.bits = n := by
  cases n <;> rfl

@[simp] theorem Cond.ofBits_bits (c : Cond) : Cond.ofBits c.bits = c := by
  obtain ⟨n, b⟩ := c
  cases n <;> cases b <;> rfl

/-- Every 3-bit field is the code of the condition it decodes to (R56). -/
theorem Cond.bits_ofBits (f : BitVec 3) : (Cond.ofBits f).bits = f := by
  revert f
  decide

/-- What the encoder gives is the list of bytes. -/
theorem bytesWith_of_encodeWith {T : OpTable} {i : Instr} {bs : List Byte} (h : encodeWith T i = some bs) :
    bytesWith T i = bs := by
  simp [bytesWith, h]

@[simp] theorem assembleFrom_nil (T : OpTable) (k : Nat) :
    assembleFrom T k [] = { segment := [], leftover := [], deferred := none } := rfl

@[simp] theorem assembleChunks_nil (T : OpTable) (d : Option Byte) :
    assembleChunks T [] d = d.toList.map fun b => [b] := by
  cases d <;> rfl

theorem assembleChunks_cons (T : OpTable) (ins : List Instr) (more : List (List Instr)) (d : Option Byte) :
    assembleChunks T (ins :: more) d =
      (assembleSegments T (ins.length + 1) ins d).1 ++
        assembleChunks T more (assembleSegments T (ins.length + 1) ins d).2 := rfl

/-- Ids of the default table, kind by kind: no two rows share a mnemonic. -/
theorem defaultFamilies_nodup : (defaultFamilies.map Prod.fst).Nodup := by decide

theorem defaultNoArgs_nodup : defaultNoArgs.Nodup := by decide

/-- The default table meets the constraints on an opcode table (R57, R58). -/
theorem OpTable.default_valid : OpTable.default.Valid where
  noarg_kind := by decide
  fam_kind := by
    intro f m k h
    simp only [OpTable.default] at h
    have hf := f.isLt
    obtain ⟨hlt, he⟩ := List.getElem?_eq_some_iff.mp h
    have hl : defaultFamilies.length = 24 := rfl
    have hall : ∀ n (hn : n < defaultFamilies.length), (defaultFamilies[n]).1.kind = some (defaultFamilies[n]).2 := by decide
    have := hall f.toNat hlt
    rw [he] at this
    exact ⟨this, by omega⟩
  noarg_inj := by
    intro id id' m h h'
    simp only [OpTable.default] at h h'
    obtain ⟨h1, h2⟩ := List.getElem?_eq_some_iff.mp h
    obtain ⟨h3, h4⟩ := List.getElem?_eq_some_iff.mp h'
    exact BitVec.eq_of_toNat_eq ((defaultNoArgs_nodup.getElem_inj_iff).mp (h2.trans h4.symm))
  fam_inj := by
    intro f f' m k k' h h'
    simp only [OpTable.default] at h h'
    obtain ⟨h1, h2⟩ := List.getElem?_eq_some_iff.mp h
    obtain ⟨h3, h4⟩ := List.getElem?_eq_some_iff.mp h'
    refine BitVec.eq_of_toNat_eq ((defaultFamilies_nodup.getElem_inj_iff (hi := by simpa using h1) (hj := by simpa using h3)).mp ?_)
    simp [h2, h4]
  noarg_total := fun m h => ⟨BitVec.ofNat 6 (defaultNoArgs.idxOf m), by cases m <;> first | rfl | cases h⟩
  fam_total := fun m k h =>
    ⟨BitVec.ofNat 5 ((defaultFamilies.map Prod.fst).idxOf m), by cases m <;> cases h <;> rfl⟩
  src_nop := rfl
  src_ret := rfl
  src_shl := rfl
  src_jcc := rfl
  src_pop := rfl
  src_dec := rfl

end Sys2Proof
end

