-- ==== Sys2Proof/Laws/State.lean ====
section
/-! SUPPORT. What each named update does to each field of the state, so that no proof unfolds an update. -/

namespace Sys2Proof.Machine

@[simp] theorem State.setA_a (s : State) (v : Byte) : (s.setA v).a = v := rfl
@[simp] theorem State.setA_cs (s : State) (v : Byte) : (s.setA v).cs = s.cs := rfl
@[simp] theorem State.setA_ip (s : State) (v : Byte) : (s.setA v).ip = s.ip := rfl
@[simp] theorem State.setA_ds (s : State) (v : Byte) : (s.setA v).ds = s.ds := rfl
@[simp] theorem State.setA_ss (s : State) (v : Byte) : (s.setA v).ss = s.ss := rfl
@[simp] theorem State.setA_csr (s : State) (v : Byte) : (s.setA v).csr = s.csr := rfl
@[simp] theorem State.setA_bank (s : State) (v : Byte) : (s.setA v).bank = s.bank := rfl
@[simp] theorem State.setA_flags (s : State) (v : Byte) : (s.setA v).flags = s.flags := rfl
@[simp] theorem State.setA_ie (s : State) (v : Byte) : (s.setA v).ie = s.ie := rfl
@[simp] theorem State.setA_iePend (s : State) (v : Byte) : (s.setA v).iePend = s.iePend := rfl
@[simp] theorem State.setA_halted (s : State) (v : Byte) : (s.setA v).halted = s.halted := rfl
@[simp] theorem State.setA_haltReason (s : State) (v : Byte) : (s.setA v).haltReason = s.haltReason := rfl
@[simp] theorem State.setA_mem (s : State) (v : Byte) : (s.setA v).mem = s.mem := rfl
@[simp] theorem State.setA_cycleNo (s : State) (v : Byte) : (s.setA v).cycleNo = s.cycleNo := rfl
@[simp] theorem State.readByte_setA (s : State) (v : Byte) (y : Addr) : (s.setA v).readByte y = s.readByte y := rfl
@[simp] theorem State.getReg_setA (s : State) (v : Byte) (q : Reg) : (s.setA v).getReg q = s.getReg q := rfl

@[simp] theorem State.setCsr_a (s : State) (v : Byte) : (s.setCsr v).a = s.a := rfl
@[simp] theorem State.setCsr_cs (s : State) (v : Byte) : (s.setCsr v).cs = s.cs := rfl
@[simp] theorem State.setCsr_ip (s : State) (v : Byte) : (s.setCsr v).ip = s.ip := rfl
@[simp] theorem State.setCsr_ds (s : State) (v : Byte) : (s.setCsr v).ds = s.ds := rfl
@[simp] theorem State.setCsr_ss (s : State) (v : Byte) : (s.setCsr v).ss = s.ss := rfl
@[simp] theorem State.setCsr_csr (s : State) (v : Byte) : (s.setCsr v).csr = v := rfl
@[simp] theorem State.setCsr_bank (s : State) (v : Byte) : (s.setCsr v).bank = s.bank := rfl
@[simp] theorem State.setCsr_flags (s : State) (v : Byte) : (s.setCsr v).flags = s.flags := rfl
@[simp] theorem State.setCsr_ie (s : State) (v : Byte) : (s.setCsr v).ie = s.ie := rfl
@[simp] theorem State.setCsr_iePend (s : State) (v : Byte) : (s.setCsr v).iePend = s.iePend := rfl
@[simp] theorem State.setCsr_halted (s : State) (v : Byte) : (s.setCsr v).halted = s.halted := rfl
@[simp] theorem State.setCsr_haltReason (s : State) (v : Byte) : (s.setCsr v).haltReason = s.haltReason := rfl
@[simp] theorem State.setCsr_mem (s : State) (v : Byte) : (s.setCsr v).mem = s.mem := rfl
@[simp] theorem State.setCsr_cycleNo (s : State) (v : Byte) : (s.setCsr v).cycleNo = s.cycleNo := rfl
@[simp] theorem State.readByte_setCsr (s : State) (v : Byte) (y : Addr) : (s.setCsr v).readByte y = s.readByte y := rfl
@[simp] theorem State.getReg_setCsr (s : State) (v : Byte) (q : Reg) : (s.setCsr v).getReg q = s.getReg q := rfl

@[simp] theorem State.setDs_a (s : State) (v : Byte) : (s.setDs v).a = s.a := rfl
@[simp] theorem State.setDs_cs (s : State) (v : Byte) : (s.setDs v).cs = s.cs := rfl
@[simp] theorem State.setDs_ip (s : State) (v : Byte) : (s.setDs v).ip = s.ip := rfl
@[simp] theorem State.setDs_ds (s : State) (v : Byte) : (s.setDs v).ds = v := rfl
@[simp] theorem State.setDs_ss (s : State) (v : Byte) : (s.setDs v).ss = s.ss := rfl
@[simp] theorem State.setDs_csr (s : State) (v : Byte) : (s.setDs v).csr = s.csr := rfl
@[simp] theorem State.setDs_bank (s : State) (v : Byte) : (s.setDs v).bank = s.bank := rfl
@[simp] theorem State.setDs_flags (s : State) (v : Byte) : (s.setDs v).flags = s.flags := rfl
@[simp] theorem State.setDs_ie (s : State) (v : Byte) : (s.setDs v).ie = s.ie := rfl
@[simp] theorem State.setDs_iePend (s : State) (v : Byte) : (s.setDs v).iePend = s.iePend := rfl
@[simp] theorem State.setDs_halted (s : State) (v : Byte) : (s.setDs v).halted = s.halted := rfl
@[simp] theorem State.setDs_haltReason (s : State) (v : Byte) : (s.setDs v).haltReason = s.haltReason := rfl
@[simp] theorem State.setDs_mem (s : State) (v : Byte) : (s.setDs v).mem = s.mem := rfl
@[simp] theorem State.setDs_cycleNo (s : State) (v : Byte) : (s.setDs v).cycleNo = s.cycleNo := rfl
@[simp] theorem State.readByte_setDs (s : State) (v : Byte) (y : Addr) : (s.setDs v).readByte y = s.readByte y := rfl
@[simp] theorem State.getReg_setDs (s : State) (v : Byte) (q : Reg) : (s.setDs v).getReg q = s.getReg q := rfl

@[simp] theorem State.setSs_a (s : State) (v : Byte) : (s.setSs v).a = s.a := rfl
@[simp] theorem State.setSs_cs (s : State) (v : Byte) : (s.setSs v).cs = s.cs := rfl
@[simp] theorem State.setSs_ip (s : State) (v : Byte) : (s.setSs v).ip = s.ip := rfl
@[simp] theorem State.setSs_ds (s : State) (v : Byte) : (s.setSs v).ds = s.ds := rfl
@[simp] theorem State.setSs_ss (s : State) (v : Byte) : (s.setSs v).ss = v := rfl
@[simp] theorem State.setSs_csr (s : State) (v : Byte) : (s.setSs v).csr = s.csr := rfl
@[simp] theorem State.setSs_bank (s : State) (v : Byte) : (s.setSs v).bank = s.bank := rfl
@[simp] theorem State.setSs_flags (s : State) (v : Byte) : (s.setSs v).flags = s.flags := rfl
@[simp] theorem State.setSs_ie (s : State) (v : Byte) : (s.setSs v).ie = s.ie := rfl
@[simp] theorem State.setSs_iePend (s : State) (v : Byte) : (s.setSs v).iePend = s.iePend := rfl
@[simp] theorem State.setSs_halted (s : State) (v : Byte) : (s.setSs v).halted = s.halted := rfl
@[simp] theorem State.setSs_haltReason (s : State) (v : Byte) : (s.setSs v).haltReason = s.haltReason := rfl
@[simp] theorem State.setSs_mem (s : State) (v : Byte) : (s.setSs v).mem = s.mem := rfl
@[simp] theorem State.setSs_cycleNo (s : State) (v : Byte) : (s.setSs v).cycleNo = s.cycleNo := rfl
@[simp] theorem State.readByte_setSs (s : State) (v : Byte) (y : Addr) : (s.setSs v).readByte y = s.readByte y := rfl
@[simp] theorem State.getReg_setSs (s : State) (v : Byte) (q : Reg) : (s.setSs v).getReg q = s.getReg q := rfl

@[simp] theorem State.setFlags_a (s : State) (f : Flags) : (s.setFlags f).a = s.a := rfl
@[simp] theorem State.setFlags_cs (s : State) (f : Flags) : (s.setFlags f).cs = s.cs := rfl
@[simp] theorem State.setFlags_ip (s : State) (f : Flags) : (s.setFlags f).ip = s.ip := rfl
@[simp] theorem State.setFlags_ds (s : State) (f : Flags) : (s.setFlags f).ds = s.ds := rfl
@[simp] theorem State.setFlags_ss (s : State) (f : Flags) : (s.setFlags f).ss = s.ss := rfl
@[simp] theorem State.setFlags_csr (s : State) (f : Flags) : (s.setFlags f).csr = s.csr := rfl
@[simp] theorem State.setFlags_bank (s : State) (f : Flags) : (s.setFlags f).bank = s.bank := rfl
@[simp] theorem State.setFlags_flags (s : State) (f : Flags) : (s.setFlags f).flags = f := rfl
@[simp] theorem State.setFlags_ie (s : State) (f : Flags) : (s.setFlags f).ie = s.ie := rfl
@[simp] theorem State.setFlags_iePend (s : State) (f : Flags) : (s.setFlags f).iePend = s.iePend := rfl
@[simp] theorem State.setFlags_halted (s : State) (f : Flags) : (s.setFlags f).halted = s.halted := rfl
@[simp] theorem State.setFlags_haltReason (s : State) (f : Flags) : (s.setFlags f).haltReason = s.haltReason := rfl
@[simp] theorem State.setFlags_mem (s : State) (f : Flags) : (s.setFlags f).mem = s.mem := rfl
@[simp] theorem State.setFlags_cycleNo (s : State) (f : Flags) : (s.setFlags f).cycleNo = s.cycleNo := rfl
@[simp] theorem State.readByte_setFlags (s : State) (f : Flags) (y : Addr) : (s.setFlags f).readByte y = s.readByte y := rfl
@[simp] theorem State.getReg_setFlags (s : State) (f : Flags) (q : Reg) : (s.setFlags f).getReg q = s.getReg q := rfl

@[simp] theorem State.setIe_a (s : State) (b : Bool) : (s.setIe b).a = s.a := rfl
@[simp] theorem State.setIe_cs (s : State) (b : Bool) : (s.setIe b).cs = s.cs := rfl
@[simp] theorem State.setIe_ip (s : State) (b : Bool) : (s.setIe b).ip = s.ip := rfl
@[simp] theorem State.setIe_ds (s : State) (b : Bool) : (s.setIe b).ds = s.ds := rfl
@[simp] theorem State.setIe_ss (s : State) (b : Bool) : (s.setIe b).ss = s.ss := rfl
@[simp] theorem State.setIe_csr (s : State) (b : Bool) : (s.setIe b).csr = s.csr := rfl
@[simp] theorem State.setIe_bank (s : State) (b : Bool) : (s.setIe b).bank = s.bank := rfl
@[simp] theorem State.setIe_flags (s : State) (b : Bool) : (s.setIe b).flags = s.flags := rfl
@[simp] theorem State.setIe_ie (s : State) (b : Bool) : (s.setIe b).ie = b := rfl
@[simp] theorem State.setIe_iePend (s : State) (b : Bool) : (s.setIe b).iePend = s.iePend := rfl
@[simp] theorem State.setIe_halted (s : State) (b : Bool) : (s.setIe b).halted = s.halted := rfl
@[simp] theorem State.setIe_haltReason (s : State) (b : Bool) : (s.setIe b).haltReason = s.haltReason := rfl
@[simp] theorem State.setIe_mem (s : State) (b : Bool) : (s.setIe b).mem = s.mem := rfl
@[simp] theorem State.setIe_cycleNo (s : State) (b : Bool) : (s.setIe b).cycleNo = s.cycleNo := rfl
@[simp] theorem State.readByte_setIe (s : State) (b : Bool) (y : Addr) : (s.setIe b).readByte y = s.readByte y := rfl
@[simp] theorem State.getReg_setIe (s : State) (b : Bool) (q : Reg) : (s.setIe b).getReg q = s.getReg q := rfl

@[simp] theorem State.setIePend_a (s : State) (b : Bool) : (s.setIePend b).a = s.a := rfl
@[simp] theorem State.setIePend_cs (s : State) (b : Bool) : (s.setIePend b).cs = s.cs := rfl
@[simp] theorem State.setIePend_ip (s : State) (b : Bool) : (s.setIePend b).ip = s.ip := rfl
@[simp] theorem State.setIePend_ds (s : State) (b : Bool) : (s.setIePend b).ds = s.ds := rfl
@[simp] theorem State.setIePend_ss (s : State) (b : Bool) : (s.setIePend b).ss = s.ss := rfl
@[simp] theorem State.setIePend_csr (s : State) (b : Bool) : (s.setIePend b).csr = s.csr := rfl
@[simp] theorem State.setIePend_bank (s : State) (b : Bool) : (s.setIePend b).bank = s.bank := rfl
@[simp] theorem State.setIePend_flags (s : State) (b : Bool) : (s.setIePend b).flags = s.flags := rfl
@[simp] theorem State.setIePend_ie (s : State) (b : Bool) : (s.setIePend b).ie = s.ie := rfl
@[simp] theorem State.setIePend_iePend (s : State) (b : Bool) : (s.setIePend b).iePend = b := rfl
@[simp] theorem State.setIePend_halted (s : State) (b : Bool) : (s.setIePend b).halted = s.halted := rfl
@[simp] theorem State.setIePend_haltReason (s : State) (b : Bool) : (s.setIePend b).haltReason = s.haltReason := rfl
@[simp] theorem State.setIePend_mem (s : State) (b : Bool) : (s.setIePend b).mem = s.mem := rfl
@[simp] theorem State.setIePend_cycleNo (s : State) (b : Bool) : (s.setIePend b).cycleNo = s.cycleNo := rfl
@[simp] theorem State.readByte_setIePend (s : State) (b : Bool) (y : Addr) : (s.setIePend b).readByte y = s.readByte y := rfl
@[simp] theorem State.getReg_setIePend (s : State) (b : Bool) (q : Reg) : (s.setIePend b).getReg q = s.getReg q := rfl

@[simp] theorem State.setPc_a (s : State) (seg off : Byte) : (s.setPc seg off).a = s.a := rfl
@[simp] theorem State.setPc_cs (s : State) (seg off : Byte) : (s.setPc seg off).cs = seg := rfl
@[simp] theorem State.setPc_ip (s : State) (seg off : Byte) : (s.setPc seg off).ip = off := rfl
@[simp] theorem State.setPc_ds (s : State) (seg off : Byte) : (s.setPc seg off).ds = s.ds := rfl
@[simp] theorem State.setPc_ss (s : State) (seg off : Byte) : (s.setPc seg off).ss = s.ss := rfl
@[simp] theorem State.setPc_csr (s : State) (seg off : Byte) : (s.setPc seg off).csr = s.csr := rfl
@[simp] theorem State.setPc_bank (s : State) (seg off : Byte) : (s.setPc seg off).bank = s.bank := rfl
@[simp] theorem State.setPc_flags (s : State) (seg off : Byte) : (s.setPc seg off).flags = s.flags := rfl
@[simp] theorem State.setPc_ie (s : State) (seg off : Byte) : (s.setPc seg off).ie = s.ie := rfl
@[simp] theorem State.setPc_iePend (s : State) (seg off : Byte) : (s.setPc seg off).iePend = s.iePend := rfl
@[simp] theorem State.setPc_halted (s : State) (seg off : Byte) : (s.setPc seg off).halted = s.halted := rfl
@[simp] theorem State.setPc_haltReason (s : State) (seg off : Byte) : (s.setPc seg off).haltReason = s.haltReason := rfl
@[simp] theorem State.setPc_mem (s : State) (seg off : Byte) : (s.setPc seg off).mem = s.mem := rfl
@[simp] theorem State.setPc_cycleNo (s : State) (seg off : Byte) : (s.setPc seg off).cycleNo = s.cycleNo := rfl
@[simp] theorem State.readByte_setPc (s : State) (seg off : Byte) (y : Addr) : (s.setPc seg off).readByte y = s.readByte y := rfl
@[simp] theorem State.getReg_setPc (s : State) (seg off : Byte) (q : Reg) : (s.setPc seg off).getReg q = s.getReg q := rfl

@[simp] theorem State.setIp_a (s : State) (off : Byte) : (s.setIp off).a = s.a := rfl
@[simp] theorem State.setIp_cs (s : State) (off : Byte) : (s.setIp off).cs = s.cs := rfl
@[simp] theorem State.setIp_ip (s : State) (off : Byte) : (s.setIp off).ip = off := rfl
@[simp] theorem State.setIp_ds (s : State) (off : Byte) : (s.setIp off).ds = s.ds := rfl
@[simp] theorem State.setIp_ss (s : State) (off : Byte) : (s.setIp off).ss = s.ss := rfl
@[simp] theorem State.setIp_csr (s : State) (off : Byte) : (s.setIp off).csr = s.csr := rfl
@[simp] theorem State.setIp_bank (s : State) (off : Byte) : (s.setIp off).bank = s.bank := rfl
@[simp] theorem State.setIp_flags (s : State) (off : Byte) : (s.setIp off).flags = s.flags := rfl
@[simp] theorem State.setIp_ie (s : State) (off : Byte) : (s.setIp off).ie = s.ie := rfl
@[simp] theorem State.setIp_iePend (s : State) (off : Byte) : (s.setIp off).iePend = s.iePend := rfl
@[simp] theorem State.setIp_halted (s : State) (off : Byte) : (s.setIp off).halted = s.halted := rfl
@[simp] theorem State.setIp_haltReason (s : State) (off : Byte) : (s.setIp off).haltReason = s.haltReason := rfl
@[simp] theorem State.setIp_mem (s : State) (off : Byte) : (s.setIp off).mem = s.mem := rfl
@[simp] theorem State.setIp_cycleNo (s : State) (off : Byte) : (s.setIp off).cycleNo = s.cycleNo := rfl
@[simp] theorem State.readByte_setIp (s : State) (off : Byte) (y : Addr) : (s.setIp off).readByte y = s.readByte y := rfl
@[simp] theorem State.getReg_setIp (s : State) (off : Byte) (q : Reg) : (s.setIp off).getReg q = s.getReg q := rfl

@[simp] theorem State.setReg_a (s : State) (r : Reg) (v : Byte) : (s.setReg r v).a = s.a := rfl
@[simp] theorem State.setReg_cs (s : State) (r : Reg) (v : Byte) : (s.setReg r v).cs = s.cs := rfl
@[simp] theorem State.setReg_ip (s : State) (r : Reg) (v : Byte) : (s.setReg r v).ip = s.ip := rfl
@[simp] theorem State.setReg_ds (s : State) (r : Reg) (v : Byte) : (s.setReg r v).ds = s.ds := rfl
@[simp] theorem State.setReg_ss (s : State) (r : Reg) (v : Byte) : (s.setReg r v).ss = s.ss := rfl
@[simp] theorem State.setReg_csr (s : State) (r : Reg) (v : Byte) : (s.setReg r v).csr = s.csr := rfl
@[simp] theorem State.setReg_bank (s : State) (r : Reg) (v : Byte) : (s.setReg r v).bank = s.bank.set r v := rfl
@[simp] theorem State.setReg_flags (s : State) (r : Reg) (v : Byte) : (s.setReg r v).flags = s.flags := rfl
@[simp] theorem State.setReg_ie (s : State) (r : Reg) (v : Byte) : (s.setReg r v).ie = s.ie := rfl
@[simp] theorem State.setReg_iePend (s : State) (r : Reg) (v : Byte) : (s.setReg r v).iePend = s.iePend := rfl
@[simp] theorem State.setReg_halted (s : State) (r : Reg) (v : Byte) : (s.setReg r v).halted = s.halted := rfl
@[simp] theorem State.setReg_haltReason (s : State) (r : Reg) (v : Byte) : (s.setReg r v).haltReason = s.haltReason := rfl
@[simp] theorem State.setReg_mem (s : State) (r : Reg) (v : Byte) : (s.setReg r v).mem = s.mem := rfl
@[simp] theorem State.setReg_cycleNo (s : State) (r : Reg) (v : Byte) : (s.setReg r v).cycleNo = s.cycleNo := rfl
@[simp] theorem State.readByte_setReg (s : State) (r : Reg) (v : Byte) (y : Addr) : (s.setReg r v).readByte y = s.readByte y := rfl

@[simp] theorem State.writeByte_a (s : State) (x : Addr) (v : Byte) : (s.writeByte x v).a = s.a := rfl
@[simp] theorem State.writeByte_cs (s : State) (x : Addr) (v : Byte) : (s.writeByte x v).cs = s.cs := rfl
@[simp] theorem State.writeByte_ip (s : State) (x : Addr) (v : Byte) : (s.writeByte x v).ip = s.ip := rfl
@[simp] theorem State.writeByte_ds (s : State) (x : Addr) (v : Byte) : (s.writeByte x v).ds = s.ds := rfl
@[simp] theorem State.writeByte_ss (s : State) (x : Addr) (v : Byte) : (s.writeByte x v).ss = s.ss := rfl
@[simp] theorem State.writeByte_csr (s : State) (x : Addr) (v : Byte) : (s.writeByte x v).csr = s.csr := rfl
@[simp] theorem State.writeByte_bank (s : State) (x : Addr) (v : Byte) : (s.writeByte x v).bank = s.bank := rfl
@[simp] theorem State.writeByte_flags (s : State) (x : Addr) (v : Byte) : (s.writeByte x v).flags = s.flags := rfl
@[simp] theorem State.writeByte_ie (s : State) (x : Addr) (v : Byte) : (s.writeByte x v).ie = s.ie := rfl
@[simp] theorem State.writeByte_iePend (s : State) (x : Addr) (v : Byte) : (s.writeByte x v).iePend = s.iePend := rfl
@[simp] theorem State.writeByte_halted (s : State) (x : Addr) (v : Byte) : (s.writeByte x v).halted = s.halted := rfl
@[simp] theorem State.writeByte_haltReason (s : State) (x : Addr) (v : Byte) : (s.writeByte x v).haltReason = s.haltReason := rfl
@[simp] theorem State.writeByte_mem (s : State) (x : Addr) (v : Byte) : (s.writeByte x v).mem = Memory.write s.mem x.toNat v := rfl
@[simp] theorem State.writeByte_cycleNo (s : State) (x : Addr) (v : Byte) : (s.writeByte x v).cycleNo = s.cycleNo := rfl
@[simp] theorem State.getReg_writeByte (s : State) (x : Addr) (v : Byte) (q : Reg) : (s.writeByte x v).getReg q = s.getReg q := rfl

@[simp] theorem State.haltWith_a (s : State) (h : Option HaltReason) : (s.haltWith h).a = s.a := rfl
@[simp] theorem State.haltWith_cs (s : State) (h : Option HaltReason) : (s.haltWith h).cs = s.cs := rfl
@[simp] theorem State.haltWith_ip (s : State) (h : Option HaltReason) : (s.haltWith h).ip = s.ip := rfl
@[simp] theorem State.haltWith_ds (s : State) (h : Option HaltReason) : (s.haltWith h).ds = s.ds := rfl
@[simp] theorem State.haltWith_ss (s : State) (h : Option HaltReason) : (s.haltWith h).ss = s.ss := rfl
@[simp] theorem State.haltWith_csr (s : State) (h : Option HaltReason) : (s.haltWith h).csr = s.csr := rfl
@[simp] theorem State.haltWith_bank (s : State) (h : Option HaltReason) : (s.haltWith h).bank = s.bank := rfl
@[simp] theorem State.haltWith_flags (s : State) (h : Option HaltReason) : (s.haltWith h).flags = s.flags := rfl
@[simp] theorem State.haltWith_ie (s : State) (h : Option HaltReason) : (s.haltWith h).ie = s.ie := rfl
@[simp] theorem State.haltWith_iePend (s : State) (h : Option HaltReason) : (s.haltWith h).iePend = s.iePend := rfl
@[simp] theorem State.haltWith_halted (s : State) (h : Option HaltReason) : (s.haltWith h).halted = true := rfl
@[simp] theorem State.haltWith_haltReason (s : State) (h : Option HaltReason) : (s.haltWith h).haltReason = h := rfl
@[simp] theorem State.haltWith_mem (s : State) (h : Option HaltReason) : (s.haltWith h).mem = s.mem := rfl
@[simp] theorem State.haltWith_cycleNo (s : State) (h : Option HaltReason) : (s.haltWith h).cycleNo = s.cycleNo := rfl
@[simp] theorem State.readByte_haltWith (s : State) (h : Option HaltReason) (y : Addr) : (s.haltWith h).readByte y = s.readByte y := rfl
@[simp] theorem State.getReg_haltWith (s : State) (h : Option HaltReason) (q : Reg) : (s.haltWith h).getReg q = s.getReg q := rfl

@[simp] theorem State.countCycle_a (s : State) : (s.countCycle).a = s.a := rfl
@[simp] theorem State.countCycle_cs (s : State) : (s.countCycle).cs = s.cs := rfl
@[simp] theorem State.countCycle_ip (s : State) : (s.countCycle).ip = s.ip := rfl
@[simp] theorem State.countCycle_ds (s : State) : (s.countCycle).ds = s.ds := rfl
@[simp] theorem State.countCycle_ss (s : State) : (s.countCycle).ss = s.ss := rfl
@[simp] theorem State.countCycle_csr (s : State) : (s.countCycle).csr = s.csr := rfl
@[simp] theorem State.countCycle_bank (s : State) : (s.countCycle).bank = s.bank := rfl
@[simp] theorem State.countCycle_flags (s : State) : (s.countCycle).flags = s.flags := rfl
@[simp] theorem State.countCycle_ie (s : State) : (s.countCycle).ie = s.ie := rfl
@[simp] theorem State.countCycle_iePend (s : State) : (s.countCycle).iePend = s.iePend := rfl
@[simp] theorem State.countCycle_halted (s : State) : (s.countCycle).halted = s.halted := rfl
@[simp] theorem State.countCycle_haltReason (s : State) : (s.countCycle).haltReason = s.haltReason := rfl
@[simp] theorem State.countCycle_mem (s : State) : (s.countCycle).mem = s.mem := rfl
@[simp] theorem State.countCycle_cycleNo (s : State) : (s.countCycle).cycleNo = s.cycleNo + 1 := rfl
@[simp] theorem State.readByte_countCycle (s : State) (y : Addr) : (s.countCycle).readByte y = s.readByte y := rfl
@[simp] theorem State.getReg_countCycle (s : State) (q : Reg) : (s.countCycle).getReg q = s.getReg q := rfl

/-- A register read after a register write: the new value, or the old one of another register. -/
theorem Bank.get_set (b : Bank) (r q : Reg) (v : Byte) : (b.set r v).get q = if q = r then v else b.get q := by
  cases r <;> cases q <;> rfl

@[simp] theorem Bank.get_set_same (b : Bank) (r : Reg) (v : Byte) : (b.set r v).get r = v := by
  simp [Bank.get_set]

theorem Bank.get_set_other (b : Bank) (r q : Reg) (v : Byte) (h : q ≠ r) : (b.set r v).get q = b.get q := by
  simp [Bank.get_set, h]

/-- Two banks that read the same everywhere are equal. -/
theorem Bank.ext_get (b c : Bank) (h : ∀ r, b.get r = c.get r) : b = c := by
  cases b
  cases c
  have h1 := h .r1
  have h2 := h .r2
  have h3 := h .r3
  have h4 := h .r4
  have h5 := h .lr
  have h6 := h .sp
  have h7 := h .bp
  simp only [Bank.get] at h1 h2 h3 h4 h5 h6 h7
  simp [*]

/-- `State.getReg` after `State.setReg`. -/
theorem State.getReg_setReg (s : State) (r q : Reg) (v : Byte) : (s.setReg r v).getReg q = if q = r then v else s.getReg q :=
  Bank.get_set s.bank r q v

@[simp] theorem Bank.set_sp_sp (b : Bank) (v : Byte) : (b.set .sp v).sp = v := rfl
@[simp] theorem Bank.set_lr_sp (b : Bank) (v : Byte) : (b.set .lr v).sp = b.sp := rfl
@[simp] theorem Bank.set_set (b : Bank) (r : Reg) (v w : Byte) : (b.set r v).set r w = b.set r w := by
  cases r <;> rfl

/-- Writing back what a register holds changes nothing. -/
@[simp] theorem Bank.set_sp_self (b : Bank) : b.set .sp b.sp = b := rfl

@[simp] theorem State.pc_setIePend (s : State) (b : Bool) : (s.setIePend b).pc = s.pc := rfl
@[simp] theorem State.pc_setPc (s : State) (seg off : Byte) : (s.setPc seg off).pc = segAddr seg off := rfl
@[simp] theorem State.setAFlags_eq (s : State) (p : Byte × Flags) : s.setAFlags p = (s.setA p.1).setFlags p.2 := rfl
@[simp] theorem State.setRegFlags_eq (s : State) (r : Reg) (p : Byte × Flags) : s.setRegFlags r p = (s.setReg r p.1).setFlags p.2 := rfl

end Sys2Proof.Machine
end

