-- ==== Sys2Proof/Laws/Memory.lean ====
section
/-! SUPPORT. Memory: a read after a write, and the canonical form. Both laws of reading hold of every list of cells. -/

namespace Sys2Proof.Machine

@[simp] theorem Memory.read_nil (a : Nat) : Memory.read [] a = Memory.blank := rfl

theorem Memory.read_cell_same (a : Nat) (v : Byte) (m : Memory) (h : Memory.read m a = Memory.blank) :
    Memory.read (Memory.cell a v m) a = v := by
  unfold Memory.cell
  split
  · next hv => rw [h, hv]
  · simp [Memory.read]

/-- Dropping cells at or below `a` leaves nothing readable at or below `a`. -/
theorem Memory.read_dropThrough_low (a b : Nat) (m : Memory) (h : b ≤ a) :
    Memory.read (Memory.dropThrough a m) b = Memory.blank := by
  induction m with
  | nil => rfl
  | cons c m ih =>
    obtain ⟨k, w⟩ := c
    unfold Memory.dropThrough
    split
    · exact ih
    · have : b ≠ k := by omega
      have : b < k := by omega
      simp [Memory.read, *]

/-- Dropping cells at or below `a` changes no read above `a`. -/
theorem Memory.read_dropThrough_high (a b : Nat) (m : Memory) (h : a < b) :
    Memory.read (Memory.dropThrough a m) b = Memory.read m b := by
  induction m with
  | nil => rfl
  | cons c m ih =>
    obtain ⟨k, w⟩ := c
    unfold Memory.dropThrough
    split
    · have h1 : b ≠ k := by omega
      have h2 : ¬ b < k := by omega
      rw [ih]
      simp [Memory.read, h1, h2]
    · rfl

/-- A read after a write: the written byte at its address, every other byte as before. -/
theorem Memory.read_write (m : Memory) (a b : Nat) (v : Byte) :
    Memory.read (Memory.write m a v) b = if b = a then v else Memory.read m b := by
  induction m with
  | nil =>
    by_cases hb : b = a
    · subst hb
      simpa [Memory.write] using Memory.read_cell_same b v [] rfl
    · by_cases hv : v = Memory.blank <;> simp [Memory.write, Memory.cell, Memory.read, hb, hv]
  | cons c m ih =>
    obtain ⟨k, w⟩ := c
    unfold Memory.write
    split
    · next hak =>
      by_cases hb : b = a
      · subst hb
        have hr : Memory.read ((k, w) :: m) b = Memory.blank := by
          have : b ≠ k := by omega
          simp [Memory.read, *]
        simpa using Memory.read_cell_same b v _ hr
      · unfold Memory.cell
        split
        · simp
        · by_cases hlt : b < a
          · have h1 : b ≠ k := by omega
            have h2 : b < k := by omega
            simp [Memory.read, hlt, h1, h2]
            omega
          · simp [Memory.read, hb, hlt]
    · split
      · next hak =>
        subst hak
        by_cases hb : b = a
        · subst hb
          simpa using Memory.read_cell_same b v _ (Memory.read_dropThrough_low b b m (Nat.le_refl b))
        · by_cases hlt : b < a
          · have hz := Memory.read_dropThrough_low a b m (by omega)
            unfold Memory.cell
            split <;> simp [Memory.read, hb, hlt, hz]
          · have hz := Memory.read_dropThrough_high a b m (by omega)
            unfold Memory.cell
            split <;> simp [Memory.read, hb, hlt, hz]
      · next h1 h2 =>
        by_cases hbk : b = k
        · have : b ≠ a := by omega
          simp [Memory.read, hbk]
          omega
        · by_cases hlt : b < k
          · have : b ≠ a := by omega
            simp [Memory.read, hbk, hlt, this]
          · simp [Memory.read, hbk, hlt, ih]

theorem Memory.wfAbove_mono (lo lo' : Nat) (m : Memory) (h : lo' ≤ lo) (hm : Memory.wfAbove lo m = true) :
    Memory.wfAbove lo' m = true := by
  cases m with
  | nil => rfl
  | cons c m =>
    obtain ⟨k, w⟩ := c
    simp [Memory.wfAbove] at hm ⊢
    refine ⟨⟨⟨by omega, hm.1.1.2⟩, hm.1.2⟩, hm.2⟩

theorem Memory.dropThrough_of_wfAbove (a : Nat) (m : Memory) (hm : Memory.wfAbove (a + 1) m = true) :
    Memory.dropThrough a m = m := by
  cases m with
  | nil => rfl
  | cons c m =>
    obtain ⟨k, w⟩ := c
    simp [Memory.wfAbove] at hm
    have : ¬ k ≤ a := by omega
    simp [Memory.dropThrough, this]

theorem Memory.wfAbove_cell (lo a : Nat) (v : Byte) (m : Memory) (hlo : lo ≤ a) (ha : a < Config.memorySize)
    (hm : Memory.wfAbove (a + 1) m = true) : Memory.wfAbove lo (Memory.cell a v m) = true := by
  unfold Memory.cell
  split
  · exact Memory.wfAbove_mono _ _ _ (by omega) hm
  · next hv => simp [Memory.wfAbove, hlo, ha, hv, hm]

theorem Memory.wfAbove_write (m : Memory) (lo a : Nat) (v : Byte) (hlo : lo ≤ a) (ha : a < Config.memorySize)
    (hm : Memory.wfAbove lo m = true) : Memory.wfAbove lo (Memory.write m a v) = true := by
  induction m generalizing lo with
  | nil => exact Memory.wfAbove_cell lo a v [] hlo ha rfl
  | cons c m ih =>
    obtain ⟨k, w⟩ := c
    have hm' := hm
    simp [Memory.wfAbove] at hm'
    unfold Memory.write
    split
    · next hak =>
      refine Memory.wfAbove_cell lo a v _ hlo ha ?_
      simp [Memory.wfAbove, hm']
      omega
    · split
      · next hak =>
        subst hak
        rw [Memory.dropThrough_of_wfAbove _ _ hm'.2]
        exact Memory.wfAbove_cell lo a v _ hlo ha hm'.2
      · have := ih (k + 1) (by omega) hm'.2
        simp [Memory.wfAbove, hm', this]

/-- Every write below the memory's size keeps the canonical form. -/
theorem Memory.wf_write (m : Memory) (a : Nat) (v : Byte) (ha : a < Config.memorySize) (hm : Memory.wf m = true) :
    Memory.wf (Memory.write m a v) = true :=
  Memory.wfAbove_write m 0 a v (Nat.zero_le a) ha hm

/-- The memory of the state after reset has the canonical form. -/
theorem Memory.wf_reset : Memory.wf State.reset.mem = true := rfl

/-- A byte read after a byte write (R47). -/
theorem State.readByte_writeByte (s : State) (x y : Addr) (v : Byte) :
    (s.writeByte x v).readByte y = if y = x then v else s.readByte y := by
  have h := Memory.read_write s.mem x.toNat y.toNat v
  by_cases hxy : y = x
  · subst hxy
    simpa [State.readByte] using h
  · have : y.toNat ≠ x.toNat := fun e => hxy (BitVec.eq_of_toNat_eq e)
    simpa [State.readByte, hxy, this] using h

@[simp] theorem State.readByte_writeByte_same (s : State) (x : Addr) (v : Byte) : (s.writeByte x v).readByte x = v := by
  simp [State.readByte_writeByte]

theorem State.readByte_writeByte_other (s : State) (x y : Addr) (v : Byte) (h : y ≠ x) :
    (s.writeByte x v).readByte y = s.readByte y := by
  simp [State.readByte_writeByte, h]

/-- A byte write keeps the canonical form of memory. -/
theorem State.wf_writeByte (s : State) (x : Addr) (v : Byte) (h : Memory.wf s.mem = true) :
    Memory.wf (s.writeByte x v).mem = true :=
  Memory.wf_write s.mem x.toNat v x.isLt h

end Sys2Proof.Machine
end

