-- ==== Sys2Proof/Laws/Ops.lean ====
section
/-! SUPPORT. What push, pop, the program-counter advance, interrupt entry and the return from it do: every field of the
state after each, and that each keeps memory canonical. -/

namespace Sys2Proof.Machine

@[simp] theorem State.push_a (s : State) (v : Byte) : (s.push v).a = s.a := rfl
@[simp] theorem State.push_cs (s : State) (v : Byte) : (s.push v).cs = s.cs := rfl
@[simp] theorem State.push_ip (s : State) (v : Byte) : (s.push v).ip = s.ip := rfl
@[simp] theorem State.push_ds (s : State) (v : Byte) : (s.push v).ds = s.ds := rfl
@[simp] theorem State.push_ss (s : State) (v : Byte) : (s.push v).ss = s.ssAfterPush := rfl
@[simp] theorem State.push_csr (s : State) (v : Byte) : (s.push v).csr = s.csr := rfl
@[simp] theorem State.push_bank (s : State) (v : Byte) : (s.push v).bank = s.bank.set .sp (s.bank.sp + 1#8) := rfl
@[simp] theorem State.push_flags (s : State) (v : Byte) : (s.push v).flags = s.flags := rfl
@[simp] theorem State.push_ie (s : State) (v : Byte) : (s.push v).ie = s.ie := rfl
@[simp] theorem State.push_iePend (s : State) (v : Byte) : (s.push v).iePend = s.iePend := rfl
@[simp] theorem State.push_halted (s : State) (v : Byte) : (s.push v).halted = s.halted := rfl
@[simp] theorem State.push_haltReason (s : State) (v : Byte) : (s.push v).haltReason = s.haltReason := rfl
@[simp] theorem State.push_mem (s : State) (v : Byte) : (s.push v).mem = Memory.write s.mem s.pushAddr.toNat v := rfl
@[simp] theorem State.push_cycleNo (s : State) (v : Byte) : (s.push v).cycleNo = s.cycleNo := rfl

@[simp] theorem State.popped_a (s : State) : s.popped.a = s.a := rfl
@[simp] theorem State.popped_cs (s : State) : s.popped.cs = s.cs := rfl
@[simp] theorem State.popped_ip (s : State) : s.popped.ip = s.ip := rfl
@[simp] theorem State.popped_ds (s : State) : s.popped.ds = s.ds := rfl
@[simp] theorem State.popped_ss (s : State) : s.popped.ss = s.ssAfterPop := rfl
@[simp] theorem State.popped_csr (s : State) : s.popped.csr = s.csr := rfl
@[simp] theorem State.popped_bank (s : State) : s.popped.bank = s.bank.set .sp (s.bank.sp - 1#8) := rfl
@[simp] theorem State.popped_flags (s : State) : s.popped.flags = s.flags := rfl
@[simp] theorem State.popped_ie (s : State) : s.popped.ie = s.ie := rfl
@[simp] theorem State.popped_iePend (s : State) : s.popped.iePend = s.iePend := rfl
@[simp] theorem State.popped_halted (s : State) : s.popped.halted = s.halted := rfl
@[simp] theorem State.popped_haltReason (s : State) : s.popped.haltReason = s.haltReason := rfl
@[simp] theorem State.popped_mem (s : State) : s.popped.mem = s.mem := rfl
@[simp] theorem State.popped_cycleNo (s : State) : s.popped.cycleNo = s.cycleNo := rfl

@[simp] theorem State.advance_a (s : State) (n : Nat) : (s.advance n).a = s.a := rfl
@[simp] theorem State.advance_cs (s : State) (n : Nat) : (s.advance n).cs = (s.pc + BitVec.ofNat 16 n).extractLsb' 8 8 := rfl
@[simp] theorem State.advance_ip (s : State) (n : Nat) : (s.advance n).ip = (s.pc + BitVec.ofNat 16 n).extractLsb' 0 8 := rfl
@[simp] theorem State.advance_ds (s : State) (n : Nat) : (s.advance n).ds = s.ds := rfl
@[simp] theorem State.advance_ss (s : State) (n : Nat) : (s.advance n).ss = s.ss := rfl
@[simp] theorem State.advance_csr (s : State) (n : Nat) : (s.advance n).csr = s.csr := rfl
@[simp] theorem State.advance_bank (s : State) (n : Nat) : (s.advance n).bank = s.bank := rfl
@[simp] theorem State.advance_flags (s : State) (n : Nat) : (s.advance n).flags = s.flags := rfl
@[simp] theorem State.advance_ie (s : State) (n : Nat) : (s.advance n).ie = s.ie := rfl
@[simp] theorem State.advance_iePend (s : State) (n : Nat) : (s.advance n).iePend = s.iePend := rfl
@[simp] theorem State.advance_halted (s : State) (n : Nat) : (s.advance n).halted = s.halted := rfl
@[simp] theorem State.advance_haltReason (s : State) (n : Nat) : (s.advance n).haltReason = s.haltReason := rfl
@[simp] theorem State.advance_mem (s : State) (n : Nat) : (s.advance n).mem = s.mem := rfl
@[simp] theorem State.advance_cycleNo (s : State) (n : Nat) : (s.advance n).cycleNo = s.cycleNo := rfl

@[simp] theorem State.interruptReturn_a (s : State) : s.interruptReturn.a = s.a := rfl
@[simp] theorem State.interruptReturn_cs (s : State) : s.interruptReturn.cs = s.popped.popValue := rfl
@[simp] theorem State.interruptReturn_ip (s : State) : s.interruptReturn.ip = s.popValue := rfl
@[simp] theorem State.interruptReturn_ds (s : State) : s.interruptReturn.ds = s.ds := rfl
@[simp] theorem State.interruptReturn_ss (s : State) : s.interruptReturn.ss = s.popped.ssAfterPop := rfl
@[simp] theorem State.interruptReturn_csr (s : State) : s.interruptReturn.csr = s.csr := rfl
@[simp] theorem State.interruptReturn_bank (s : State) : s.interruptReturn.bank = s.bank.set .sp (s.bank.sp - 1#8 - 1#8) := by
  simp [State.interruptReturn, State.popped]
@[simp] theorem State.interruptReturn_flags (s : State) : s.interruptReturn.flags = s.flags := rfl
@[simp] theorem State.interruptReturn_ie (s : State) : s.interruptReturn.ie = s.ie := rfl
@[simp] theorem State.interruptReturn_iePend (s : State) : s.interruptReturn.iePend = true := rfl
@[simp] theorem State.interruptReturn_halted (s : State) : s.interruptReturn.halted = s.halted := rfl
@[simp] theorem State.interruptReturn_haltReason (s : State) : s.interruptReturn.haltReason = s.haltReason := rfl
@[simp] theorem State.interruptReturn_mem (s : State) : s.interruptReturn.mem = s.mem := rfl
@[simp] theorem State.interruptReturn_cycleNo (s : State) : s.interruptReturn.cycleNo = s.cycleNo := rfl

@[simp] theorem State.interruptEntry_a (s : State) : s.interruptEntry.a = s.a := by
  simp [State.interruptEntry]
@[simp] theorem State.interruptEntry_cs (s : State) : s.interruptEntry.cs = ((s.push s.cs).push s.ip).readByte Config.vectorSegmentAddr := by
  simp only [State.interruptEntry, State.setPc_cs]
  rfl
@[simp] theorem State.interruptEntry_ip (s : State) : s.interruptEntry.ip = ((s.push s.cs).push s.ip).readByte Config.vectorOffsetAddr := by
  simp only [State.interruptEntry, State.setPc_ip]
  rfl
@[simp] theorem State.interruptEntry_ds (s : State) : s.interruptEntry.ds = s.ds := by
  simp [State.interruptEntry]
@[simp] theorem State.interruptEntry_ss (s : State) : s.interruptEntry.ss = (s.push s.cs).ssAfterPush := by
  simp [State.interruptEntry]
@[simp] theorem State.interruptEntry_csr (s : State) : s.interruptEntry.csr = s.csr := by
  simp [State.interruptEntry]
@[simp] theorem State.interruptEntry_bank (s : State) : s.interruptEntry.bank = s.bank.set .sp (s.bank.sp + 1#8 + 1#8) := by
  simp [State.interruptEntry, State.push]
@[simp] theorem State.interruptEntry_flags (s : State) : s.interruptEntry.flags = s.flags := by
  simp [State.interruptEntry]
@[simp] theorem State.interruptEntry_ie (s : State) : s.interruptEntry.ie = false := by
  simp [State.interruptEntry]
@[simp] theorem State.interruptEntry_iePend (s : State) : s.interruptEntry.iePend = s.iePend := by
  simp [State.interruptEntry]
@[simp] theorem State.interruptEntry_halted (s : State) : s.interruptEntry.halted = s.halted := by
  simp [State.interruptEntry]
@[simp] theorem State.interruptEntry_haltReason (s : State) : s.interruptEntry.haltReason = s.haltReason := by
  simp [State.interruptEntry]
@[simp] theorem State.interruptEntry_mem (s : State) : s.interruptEntry.mem = ((s.push s.cs).push s.ip).mem := by
  simp only [State.interruptEntry, State.setPc_mem, State.setIe_mem]
@[simp] theorem State.interruptEntry_cycleNo (s : State) : s.interruptEntry.cycleNo = s.cycleNo := by
  simp [State.interruptEntry]

@[simp] theorem State.readByte_popped (s : State) (x : Addr) : s.popped.readByte x = s.readByte x := rfl
@[simp] theorem State.readByte_advance (s : State) (n : Nat) (x : Addr) : (s.advance n).readByte x = s.readByte x := rfl
@[simp] theorem State.readByte_interruptReturn (s : State) (x : Addr) : s.interruptReturn.readByte x = s.readByte x := rfl
@[simp] theorem State.readByte_interruptEntry (s : State) (x : Addr) :
    s.interruptEntry.readByte x = ((s.push s.cs).push s.ip).readByte x := by
  simp only [State.readByte, State.interruptEntry_mem]

/-- A push stores its byte at `ss:sp` and no other byte (R42). -/
theorem State.readByte_push (s : State) (v : Byte) (x : Addr) :
    (s.push v).readByte x = if x = s.pushAddr then v else s.readByte x :=
  State.readByte_writeByte s s.pushAddr x v

/-- A push keeps memory canonical. -/
theorem State.wf_push (s : State) (v : Byte) (h : Memory.wf s.mem = true) : Memory.wf (s.push v).mem = true :=
  State.wf_writeByte s s.pushAddr v h

/-- A pop keeps memory canonical. -/
theorem State.wf_popped (s : State) (h : Memory.wf s.mem = true) : Memory.wf s.popped.mem = true :=
  h

/-- Interrupt entry keeps memory canonical. -/
theorem State.wf_interruptEntry (s : State) (h : Memory.wf s.mem = true) : Memory.wf s.interruptEntry.mem = true := by
  rw [State.interruptEntry_mem]
  exact State.wf_push _ _ (State.wf_push _ _ h)

/-- The return from an interrupt keeps memory canonical. -/
theorem State.wf_interruptReturn (s : State) (h : Memory.wf s.mem = true) : Memory.wf s.interruptReturn.mem = true :=
  h

/-- Placing an instruction keeps memory canonical. -/
theorem State.wf_placeBytes (s : State) (b0 b1 : Byte) (h : Memory.wf s.mem = true) : Memory.wf (s.placeBytes b0 b1).mem = true := by
  unfold State.placeBytes
  split
  · exact State.wf_writeByte _ _ _ h
  · exact State.wf_writeByte _ _ _ (State.wf_writeByte _ _ _ h)

/-- The number of a segment address: `s * 256 + o` (R33). -/
theorem segAddr_toNat (seg off : Byte) : (segAddr seg off).toNat = seg.toNat * 256 + off.toNat := by
  have h := off.isLt
  have e : (segAddr seg off).toNat = seg.toNat <<< 8 ||| off.toNat := BitVec.toNat_append seg off
  rw [e, Nat.shiftLeft_eq, Nat.mul_comm, ← Nat.two_pow_add_eq_or_of_lt (by omega)]

/-- A segment address splits into its segment and offset (R33). -/
@[simp] theorem segAddr_hi (seg off : Byte) : (segAddr seg off).extractLsb' 8 8 = seg := by
  apply BitVec.eq_of_toNat_eq
  have h := seg.isLt
  have h' := off.isLt
  rw [BitVec.extractLsb'_toNat, segAddr_toNat, Nat.shiftRight_eq_div_pow]
  omega

@[simp] theorem segAddr_lo (seg off : Byte) : (segAddr seg off).extractLsb' 0 8 = off := by
  apply BitVec.eq_of_toNat_eq
  have h := seg.isLt
  have h' := off.isLt
  rw [BitVec.extractLsb'_toNat, segAddr_toNat, Nat.shiftRight_eq_div_pow]
  omega

/-- Every address is the segment address of its two halves (R33). -/
theorem segAddr_split (x : Addr) : segAddr (x.extractLsb' 8 8) (x.extractLsb' 0 8) = x := by
  apply BitVec.eq_of_toNat_eq
  have h := x.isLt
  rw [segAddr_toNat, BitVec.extractLsb'_toNat, BitVec.extractLsb'_toNat, Nat.shiftRight_eq_div_pow, Nat.shiftRight_eq_div_pow]
  omega

end Sys2Proof.Machine
end

