-- ==== Sys2Proof/Laws/Cycle.lean ====
section
/-! SUPPORT. What one cycle can do. -/

namespace Sys2Proof.Machine

/-- Everything a cycle that answers a next state has done: the core was running, and either the decode failed or an
instruction was executed and the cycle ended. -/
theorem cycle_next {T : OpTable} {irq : Bool} {s t : State} (h : cycle T irq s = .next t) :
    s.halted = false ∧
      (((fetchDecode T s).instr = none ∧ t = decodeFailureState T s) ∨
        ∃ i u, (fetchDecode T s).instr = some i ∧ exec i (executeState T s) = .next u ∧ t = endCycle i irq u) := by
  unfold cycle at h
  split at h
  · cases h
  · next hh =>
    refine ⟨by simpa using hh, ?_⟩
    split at h
    · next hn =>
      cases h
      exact .inl ⟨hn, rfl⟩
    · next i hi =>
      split at h
      · next u hu =>
        cases h
        exact .inr ⟨i, u, hi, hu, rfl⟩
      · cases h
      · cases h

/-- The step is the cycle with the default table and this cycle's draw. -/
theorem step_eq_cycle (s : State) : step s = cycle OpTable.default (Config.irq s.cycleNo) s := rfl

@[simp] theorem interruptCheck_off (irq : Bool) (s : State) (h : s.ie = false) : interruptCheck irq s = s := by
  simp [interruptCheck, h]

@[simp] theorem interruptCheck_taken (s : State) (h : s.ie = true) : interruptCheck true s = s.interruptEntry := by
  simp [interruptCheck, h]

@[simp] theorem interruptCheck_noRequest (s : State) : interruptCheck false s = s := by
  simp [interruptCheck]

@[simp] theorem enableLatch_off (s : State) (h : s.iePend = false) : enableLatch s = s := by
  simp [enableLatch, h]

/-- The end of the cycle of `HLT`: nothing follows (R126). -/
@[simp] theorem endCycle_hlt (irq : Bool) (s : State) : endCycle .hlt irq s = s := rfl

/-- The end of every other cycle: the interrupt check, then the latch (R126). -/
theorem endCycle_of_ne (i : Instr) (irq : Bool) (s : State) (h : i ≠ .hlt) :
    endCycle i irq s = enableLatch (interruptCheck irq s) := by
  simp [endCycle, h]

/-- The interrupt check either changes nothing or is an interrupt entry (R127). -/
theorem interruptCheck_cases (irq : Bool) (s : State) :
    interruptCheck irq s = s ∨ (s.ie = true ∧ irq = true ∧ interruptCheck irq s = s.interruptEntry) := by
  cases hi : s.ie <;> cases irq <;> simp [interruptCheck, hi]

/-- The latch touches `ie` and itself only, and leaves itself clear (R128, R29). -/
theorem enableLatch_eq (s : State) : enableLatch s = { s with ie := s.ie || s.iePend, iePend := false } := by
  cases s
  rename_i p _ _ _ _
  cases p <;> simp [enableLatch, State.setIe, State.setIePend]

end Sys2Proof.Machine
end

