-- ==== Sys2Proof/Laws/PerInstr.lean ====
section
/-! SUPPORT. Statements made per instruction: its shape is well formed, and the constructor of that shape builds it (R61, R62). -/

namespace Sys2Proof.Laws

/-- The shape of the instruction passes the check of R62, and construction from the shape gives the instruction back. -/
def CreateShape.Statement (i : Instr) : Prop :=
  i.shape.wellFormed = true ∧ create i.shape = some i

/-- Every ImmReg mnemonic builds its instruction from either form of the argument. -/
theorem create_shape_immReg (op : Mnemonic) (f : Arg → Instr) (hb : op.builder = .immReg f) (hk : op.kind = some .immReg)
    (o : Arg) : (o.shape op).wellFormed = true ∧ create (o.shape op) = some (f o) := by
  cases o <;> simp [Arg.shape, Shape.wellFormed, create, createReg, createImm, hb, hk]

/-- Every RegOnly mnemonic builds its instruction from a register. -/
theorem create_shape_regOnly (op : Mnemonic) (f : Reg → Instr) (hb : op.builder = .regOnly f) (hk : op.kind = some .regOnly)
    (r : Reg) : (Shape.reg op r.bits).wellFormed = true ∧ create (Shape.reg op r.bits) = some (f r) := by
  simp [Shape.wellFormed, create, createReg, hb, hk]

theorem CreateShape.jf (o : Arg) : CreateShape.Statement (.jf o) := create_shape_immReg .jf _ rfl rfl o
theorem CreateShape.jn (o : Arg) : CreateShape.Statement (.jn o) := create_shape_immReg .jn _ rfl rfl o
theorem CreateShape.jcc (c : Cond) (target : Byte) : CreateShape.Statement (.jcc c target) := ⟨rfl, rfl⟩
theorem CreateShape.calln (o : Arg) : CreateShape.Statement (.calln o) := create_shape_immReg .calln _ rfl rfl o
theorem CreateShape.callf (o : Arg) : CreateShape.Statement (.callf o) := create_shape_immReg .callf _ rfl rfl o
theorem CreateShape.ret : CreateShape.Statement (.ret) := ⟨rfl, rfl⟩
theorem CreateShape.push (o : Arg) : CreateShape.Statement (.push o) := create_shape_immReg .push _ rfl rfl o
theorem CreateShape.pushCsr : CreateShape.Statement (.pushCsr) := ⟨rfl, rfl⟩
theorem CreateShape.pop (r : Reg) : CreateShape.Statement (.pop r) := create_shape_regOnly .pop _ rfl rfl r
theorem CreateShape.popCsr : CreateShape.Statement (.popCsr) := ⟨rfl, rfl⟩
theorem CreateShape.ldaCsr : CreateShape.Statement (.ldaCsr) := ⟨rfl, rfl⟩
theorem CreateShape.staCsr : CreateShape.Statement (.staCsr) := ⟨rfl, rfl⟩
theorem CreateShape.ldds (o : Arg) : CreateShape.Statement (.ldds o) := create_shape_immReg .ldds _ rfl rfl o
theorem CreateShape.stds (r : Reg) : CreateShape.Statement (.stds r) := create_shape_regOnly .stds _ rfl rfl r
theorem CreateShape.ldss (o : Arg) : CreateShape.Statement (.ldss o) := create_shape_immReg .ldss _ rfl rfl o
theorem CreateShape.stss (r : Reg) : CreateShape.Statement (.stss r) := create_shape_regOnly .stss _ rfl rfl r
theorem CreateShape.lda (o : Arg) : CreateShape.Statement (.lda o) := create_shape_immReg .lda _ rfl rfl o
theorem CreateShape.sta (r : Reg) : CreateShape.Statement (.sta r) := create_shape_regOnly .sta _ rfl rfl r
theorem CreateShape.ldm (o : Arg) : CreateShape.Statement (.ldm o) := create_shape_immReg .ldm _ rfl rfl o
theorem CreateShape.stm (o : Arg) : CreateShape.Statement (.stm o) := create_shape_immReg .stm _ rfl rfl o
theorem CreateShape.swp (r : Reg) : CreateShape.Statement (.swp r) := create_shape_regOnly .swp _ rfl rfl r
theorem CreateShape.incA : CreateShape.Statement (.incA) := ⟨rfl, rfl⟩
theorem CreateShape.decA : CreateShape.Statement (.decA) := ⟨rfl, rfl⟩
theorem CreateShape.inc (r : Reg) : CreateShape.Statement (.inc r) := create_shape_regOnly .inc _ rfl rfl r
theorem CreateShape.dec (r : Reg) : CreateShape.Statement (.dec r) := create_shape_regOnly .dec _ rfl rfl r
theorem CreateShape.add (o : Arg) : CreateShape.Statement (.add o) := create_shape_immReg .add _ rfl rfl o
theorem CreateShape.adc (o : Arg) : CreateShape.Statement (.adc o) := create_shape_immReg .adc _ rfl rfl o
theorem CreateShape.sub (o : Arg) : CreateShape.Statement (.sub o) := create_shape_immReg .sub _ rfl rfl o
theorem CreateShape.shl : CreateShape.Statement (.shl) := ⟨rfl, rfl⟩
theorem CreateShape.shr : CreateShape.Statement (.shr) := ⟨rfl, rfl⟩
theorem CreateShape.sra : CreateShape.Statement (.sra) := ⟨rfl, rfl⟩
theorem CreateShape.rol : CreateShape.Statement (.rol) := ⟨rfl, rfl⟩
theorem CreateShape.ror : CreateShape.Statement (.ror) := ⟨rfl, rfl⟩
theorem CreateShape.and (o : Arg) : CreateShape.Statement (.and o) := create_shape_immReg .and _ rfl rfl o
theorem CreateShape.or (o : Arg) : CreateShape.Statement (.or o) := create_shape_immReg .or _ rfl rfl o
theorem CreateShape.xor (o : Arg) : CreateShape.Statement (.xor o) := create_shape_immReg .xor _ rfl rfl o
theorem CreateShape.clr : CreateShape.Statement (.clr) := ⟨rfl, rfl⟩
theorem CreateShape.cflags : CreateShape.Statement (.cflags) := ⟨rfl, rfl⟩
theorem CreateShape.nop : CreateShape.Statement (.nop) := ⟨rfl, rfl⟩
theorem CreateShape.eni : CreateShape.Statement (.eni) := ⟨rfl, rfl⟩
theorem CreateShape.dsi : CreateShape.Statement (.dsi) := ⟨rfl, rfl⟩
theorem CreateShape.iret : CreateShape.Statement (.iret) := ⟨rfl, rfl⟩
theorem CreateShape.hlt : CreateShape.Statement (.hlt) := ⟨rfl, rfl⟩

end Sys2Proof.Laws
end

