-- ==== Sys2Proof/Tests/Slice0.lean ====
section
/-! SUPPORT. Tests: the encodings of 30_encoding.md R58 and the vectors of 95_test_vectors.md, and a witness for every statement
that has hypotheses. -/

namespace Sys2Proof.Tests

open Sys2Proof.Machine

/-! ## Well-formedness (R62; 95_test_vectors.md L2.2): each check refuses an ill-formed shape -/

theorem test_wf_refuses_sentinel_regOnly : (Shape.reg .pop 0#3).wellFormed = false := by decide
theorem test_wf_refuses_sentinel_immReg : (Shape.reg .lda 0#3).wellFormed = false := by decide
theorem test_wf_refuses_imm_of_regOnly : (Shape.imm .pop 5#8).wellFormed = false := by decide
theorem test_wf_refuses_reg_of_cond : (Shape.reg .jcc 1#3).wellFormed = false := by decide
theorem test_wf_refuses_reg_of_noArg : (Shape.reg .nop 1#3).wellFormed = false := by decide
theorem test_wf_refuses_noArg_of_argument : (Shape.noArg .add).wellFormed = false := by decide
theorem test_wf_refuses_cond_of_immReg : (Shape.condImm .add { flag := .zero, negate := false } 0#8).wellFormed = false := by decide
theorem test_wf_accepts_well_formed : (Shape.reg .pop 1#3).wellFormed = true ∧ (Shape.imm .lda 0#8).wellFormed = true ∧ (Shape.noArg .nop).wellFormed = true := by decide
theorem test_create_refuses_what_wf_refuses : create (.reg .pop 0#3) = none ∧ create (.reg .lda 0#3) = none ∧ create (.imm .pop 5#8) = none ∧
    create (.reg .jcc 1#3) = none ∧ create (.reg .nop 1#3) = none ∧ create (.noArg .add) = none := by decide
theorem test_table_refuses_two_ids_for_one_mnemonic : ¬ OpTable.Valid { noarg := fun _ => some .nop, fam := OpTable.default.fam } := fun h => absurd h.src_ret (by decide)

/-! ## Decoding: one word of every constructor, bit by bit from the tables of R58 -/

theorem test_decode_jf : (decode [0b00000000#8, 0x34#8]).instr = some (.jf (.imm 0x34#8)) ∧ encode (.jf (.imm 0x34#8)) = [0b00000000#8, 0x34#8] := by decide
theorem test_decode_jn : (decode [0b00001010#8]).instr = some (.jn (.reg .r2)) ∧ encode (.jn (.reg .r2)) = [0b00001010#8] := by decide
theorem test_decode_jcc : (decode [0b00011111#8, 0x7F#8]).instr = some (.jcc { flag := .negative, negate := true } 0x7F#8) ∧ encode (.jcc { flag := .negative, negate := true } 0x7F#8) = [0b00011111#8, 0x7F#8] := by decide
theorem test_decode_calln : (decode [0b00010000#8, 0x20#8]).instr = some (.calln (.imm 0x20#8)) ∧ encode (.calln (.imm 0x20#8)) = [0b00010000#8, 0x20#8] := by decide
theorem test_decode_callf : (decode [0b00100101#8]).instr = some (.callf (.reg .lr)) ∧ encode (.callf (.reg .lr)) = [0b00100101#8] := by decide
theorem test_decode_ret : (decode [0b11000001#8]).instr = some .ret ∧ encode .ret = [0b11000001#8] := by decide
theorem test_decode_push : (decode [0b00101111#8]).instr = some (.push (.reg .bp)) ∧ encode (.push (.reg .bp)) = [0b00101111#8] := by decide
theorem test_decode_push_csr : (decode [0b11001101#8]).instr = some .pushCsr ∧ encode .pushCsr = [0b11001101#8] := by decide
theorem test_decode_pop : (decode [0b00111001#8]).instr = some (.pop .r1) ∧ encode (.pop .r1) = [0b00111001#8] := by decide
theorem test_decode_pop_csr : (decode [0b11001110#8]).instr = some .popCsr ∧ encode .popCsr = [0b11001110#8] := by decide
theorem test_decode_lda_csr : (decode [0b11001111#8]).instr = some .ldaCsr ∧ encode .ldaCsr = [0b11001111#8] := by decide
theorem test_decode_sta_csr : (decode [0b11010000#8]).instr = some .staCsr ∧ encode .staCsr = [0b11010000#8] := by decide
theorem test_decode_ldds : (decode [0b01011000#8, 0x11#8]).instr = some (.ldds (.imm 0x11#8)) ∧ encode (.ldds (.imm 0x11#8)) = [0b01011000#8, 0x11#8] := by decide
theorem test_decode_stds : (decode [0b01100001#8]).instr = some (.stds .r1) ∧ encode (.stds .r1) = [0b01100001#8] := by decide
theorem test_decode_ldss : (decode [0b01101100#8]).instr = some (.ldss (.reg .r4)) ∧ encode (.ldss (.reg .r4)) = [0b01101100#8] := by decide
theorem test_decode_stss : (decode [0b01110111#8]).instr = some (.stss .bp) ∧ encode (.stss .bp) = [0b01110111#8] := by decide
theorem test_decode_lda : (decode [0b00110000#8, 0x05#8]).instr = some (.lda (.imm 0x05#8)) ∧ encode (.lda (.imm 0x05#8)) = [0b00110000#8, 0x05#8] := by decide
theorem test_decode_sta : (decode [0b01000110#8]).instr = some (.sta .sp) ∧ encode (.sta .sp) = [0b01000110#8] := by decide
theorem test_decode_ldm : (decode [0b01001110#8]).instr = some (.ldm (.reg .sp)) ∧ encode (.ldm (.reg .sp)) = [0b01001110#8] := by decide
theorem test_decode_stm : (decode [0b01010000#8, 0xFF#8]).instr = some (.stm (.imm 0xFF#8)) ∧ encode (.stm (.imm 0xFF#8)) = [0b01010000#8, 0xFF#8] := by decide
theorem test_decode_swp : (decode [0b01111111#8]).instr = some (.swp .bp) ∧ encode (.swp .bp) = [0b01111111#8] := by decide
theorem test_decode_inc_a : (decode [0b11001001#8]).instr = some .incA ∧ encode .incA = [0b11001001#8] := by decide
theorem test_decode_dec_a : (decode [0b11001010#8]).instr = some .decA ∧ encode .decA = [0b11001010#8] := by decide
theorem test_decode_inc : (decode [0b10111100#8]).instr = some (.inc .r4) ∧ encode (.inc .r4) = [0b10111100#8] := by decide
theorem test_decode_dec : (decode [0b10110001#8]).instr = some (.dec .r1) ∧ encode (.dec .r1) = [0b10110001#8] := by decide
theorem test_decode_add : (decode [0b10000001#8]).instr = some (.add (.reg .r1)) ∧ encode (.add (.reg .r1)) = [0b10000001#8] := by decide
theorem test_decode_adc : (decode [0b10001000#8, 0xFF#8]).instr = some (.adc (.imm 0xFF#8)) ∧ encode (.adc (.imm 0xFF#8)) = [0b10001000#8, 0xFF#8] := by decide
theorem test_decode_sub : (decode [0b10010011#8]).instr = some (.sub (.reg .r3)) ∧ encode (.sub (.reg .r3)) = [0b10010011#8] := by decide
theorem test_decode_shl : (decode [0b11000100#8]).instr = some .shl ∧ encode .shl = [0b11000100#8] := by decide
theorem test_decode_shr : (decode [0b11000101#8]).instr = some .shr ∧ encode .shr = [0b11000101#8] := by decide
theorem test_decode_sra : (decode [0b11000110#8]).instr = some .sra ∧ encode .sra = [0b11000110#8] := by decide
theorem test_decode_rol : (decode [0b11000111#8]).instr = some .rol ∧ encode .rol = [0b11000111#8] := by decide
theorem test_decode_ror : (decode [0b11001000#8]).instr = some .ror ∧ encode .ror = [0b11001000#8] := by decide
theorem test_decode_and : (decode [0b10011000#8, 0x0F#8]).instr = some (.and (.imm 0x0F#8)) ∧ encode (.and (.imm 0x0F#8)) = [0b10011000#8, 0x0F#8] := by decide
theorem test_decode_or : (decode [0b10100010#8]).instr = some (.or (.reg .r2)) ∧ encode (.or (.reg .r2)) = [0b10100010#8] := by decide
theorem test_decode_xor : (decode [0b10101000#8, 0xF0#8]).instr = some (.xor (.imm 0xF0#8)) ∧ encode (.xor (.imm 0xF0#8)) = [0b10101000#8, 0xF0#8] := by decide
theorem test_decode_clr : (decode [0b11001011#8]).instr = some .clr ∧ encode .clr = [0b11001011#8] := by decide
theorem test_decode_cflags : (decode [0b11001100#8]).instr = some .cflags ∧ encode .cflags = [0b11001100#8] := by decide
theorem test_decode_nop : (decode [0b11000000#8]).instr = some .nop ∧ encode .nop = [0b11000000#8] := by decide
theorem test_decode_eni : (decode [0b11010001#8]).instr = some .eni ∧ encode .eni = [0b11010001#8] := by decide
theorem test_decode_dsi : (decode [0b11010010#8]).instr = some .dsi ∧ encode .dsi = [0b11010010#8] := by decide
theorem test_decode_iret : (decode [0b11000010#8]).instr = some .iret ∧ encode .iret = [0b11000010#8] := by decide
theorem test_decode_hlt : (decode [0b11000011#8]).instr = some .hlt ∧ encode .hlt = [0b11000011#8] := by decide
theorem test_decode_example_failures : (decode []).reason = .noData ∧ decode [0x38#8, 0xFF#8] = { instr := none, rest := [0xFF#8], reason := .invalidArgument } ∧
    (decode [0xD3#8]).reason = .invalidOpCode ∧ (decode [0xFF#8]).reason = .invalidOpCode ∧
    (decode [0x30#8]).reason = .noImmediate ∧ (decode [0x18#8]).reason = .noImmediate := by decide
theorem test_decode_register_form_keeps_next_byte : (decode [0x31#8, 0x99#8]).rest = [0x99#8] ∧ (decode [0x48#8, 0x10#8, 0xC3#8]).rest = [0xC3#8] := by decide
theorem test_table_word_two_bytes : decodeTableWord 8 0x30 = some (.lda (.imm 0x00#8)) ∧ decodeTableWord 16 0x0530 = some (.lda (.imm 0x05#8)) := by decide

/-- Counts over all first bytes (95_test_vectors.md L2.1): 204 two-byte inputs decode. -/
theorem test_count_of_valid_first_bytes :
    ((List.range 256).filter fun b => (decode [BitVec.ofNat 8 b, 0x00#8]).reason = .success).length = 204 := by decide +kernel

/-- The eight condition codes, each with the flag and the negation of the table of R56. -/
theorem test_condition_codes :
    ((List.range 8).map fun k => (decode [BitVec.ofNat 8 (0x18 + k), 0x7F#8]).instr) =
      ([{ flag := .zero, negate := false }, { flag := .zero, negate := true },
        { flag := .carry, negate := false }, { flag := .carry, negate := true },
        { flag := .overflow, negate := false }, { flag := .overflow, negate := true },
        { flag := .negative, negate := false }, { flag := .negative, negate := true }].map fun c => some (.jcc c 0x7F#8)) := by decide

/-- The seven register ids of R24, in the bytes of POP. -/
theorem test_register_ids :
    ((List.range 7).map fun k => (decode [BitVec.ofNat 8 (0x39 + k)]).instr) =
      ([.r1, .r2, .r3, .r4, .lr, .sp, .bp].map fun r => some (.pop r)) := by decide

/-- The source's assembled example (95_test_vectors.md S4). -/
theorem test_assemble_example :
    assembleProgram OpTable.default [.shl, .dec .r1, .jcc { flag := .zero, negate := true } 0x00#8, .ret] =
      [[0xC4#8, 0xB1#8, 0x19#8, 0x00#8, 0xC1#8]] := by decide

/-- An immediate is deferred across a segment boundary (R74). -/
theorem test_assemble_defers :
    assembleFrom OpTable.default 255 [.lda (.imm 0x05#8), .hlt] =
      { segment := [0x30#8], leftover := [.hlt], deferred := some 0x05#8 } ∧
    assemble OpTable.default [.hlt] (some 0x05#8) = { segment := [0x05#8, 0xC3#8], leftover := [], deferred := none } := by decide

/-- Chunks are assembled one after the other, and a byte deferred before the first stands first (R75). -/
theorem test_assemble_chunks :
    assembleChunks OpTable.default [[.shl], [.dec .r1, .ret]] (some 0x7F#8) = [[0x7F#8, 0xC4#8], [0xB1#8, 0xC1#8]] ∧
    assembleChunks OpTable.default [] (some 0x7F#8) = [[0x7F#8]] := by decide

/-! ## Vectors of 95_test_vectors.md, one step each -/

/-- One cycle with the request off, from a state with the two bytes placed at the program counter. -/
def after (s : State) (b0 b1 : Byte) : Option State :=
  nextState? (cycle OpTable.default false (s.placeBytes b0 b1))

/-- One cycle with the request asserted. -/
def afterIrq (s : State) (b0 b1 : Byte) : Option State :=
  nextState? (cycle OpTable.default true (s.placeBytes b0 b1))

/-- Reset with a program counter. -/
def at_ (seg off : Byte) : State :=
  State.reset.setPc seg off

/-- Flags from the four names. -/
def fl (z c v n : Bool) : Flags :=
  { z := z, c := c, v := v, n := n }

theorem test_add_overflow : (after (((at_ 0x00#8 0x00#8).setA 0x7F#8).setFlags (fl false false false false)) 0x80#8 0x01#8).map (fun t => (t.a, t.flags)) =
    some (0x80#8, fl false false true true) := by decide
theorem test_add_carry : (after (((at_ 0x00#8 0x00#8).setA 0xFF#8).setFlags (fl false false false false)) 0x80#8 0x01#8).map (fun t => (t.a, t.flags)) =
    some (0x00#8, fl true true false false) := by decide
theorem test_adc_carry_in : (after (((at_ 0x00#8 0x00#8).setA 0x7F#8).setFlags (fl false true false false)) 0x88#8 0x00#8).map (fun t => (t.a, t.flags)) =
    some (0x80#8, fl false false true true) := by decide
theorem test_adc_wraps : (after (((at_ 0x00#8 0x00#8).setA 0xFF#8).setFlags (fl false true false false)) 0x88#8 0xFF#8).map (fun t => (t.a, t.flags)) =
    some (0xFF#8, fl false true false true) := by decide
theorem test_sub_literal_overflow : (after (((at_ 0x00#8 0x00#8).setA 0x80#8).setFlags (fl false false false false)) 0x90#8 0x80#8).map (fun t => (t.a, t.flags)) =
    some (0x00#8, fl true false true false) := by decide
theorem test_sub_no_literal_overflow : (after (((at_ 0x00#8 0x00#8).setA 0x7F#8).setFlags (fl false false false false)) 0x90#8 0xFF#8).map (fun t => (t.a, t.flags)) =
    some (0x80#8, fl false true false true) := by decide
theorem test_and_clears_carry : (after (((at_ 0x00#8 0x00#8).setA 0xF0#8).setFlags (fl false true true false)) 0x98#8 0x0F#8).map (fun t => (t.a, t.flags)) =
    some (0x00#8, fl true false false false) := by decide
theorem test_or_result : (after (((at_ 0x00#8 0x00#8).setA 0x70#8).setFlags (fl false false false false)) 0xA0#8 0x0F#8).map (fun t => (t.a, t.flags)) =
    some (0x7F#8, fl false false false false) := by decide
theorem test_xor_sets_carry : (after (((at_ 0x00#8 0x00#8).setA 0xFF#8).setFlags (fl false false false false)) 0xA8#8 0xFF#8).map (fun t => (t.a, t.flags)) =
    some (0x00#8, fl true true false false) := by decide
theorem test_shl_keeps_overflow : (after (((at_ 0x00#8 0x00#8).setA 0x81#8).setFlags (fl false false true false)) 0xC4#8 0x00#8).map (fun t => (t.a, t.flags)) =
    some (0x02#8, fl false true true false) := by decide
theorem test_shr_clears_carry : (after (((at_ 0x00#8 0x00#8).setA 0x01#8).setFlags (fl false true false false)) 0xC5#8 0x00#8).map (fun t => (t.a, t.flags)) =
    some (0x00#8, fl true false false false) := by decide
theorem test_sra_keeps_sign : (after (((at_ 0x00#8 0x00#8).setA 0x80#8).setFlags (fl false true false false)) 0xC6#8 0x00#8).map (fun t => (t.a, t.flags)) =
    some (0xC0#8, fl false false false true) := by decide
theorem test_rol_keeps_carry : (after (((at_ 0x00#8 0x00#8).setA 0x80#8).setFlags (fl false true true false)) 0xC7#8 0x00#8).map (fun t => (t.a, t.flags)) =
    some (0x01#8, fl false true true false) := by decide
theorem test_ror_into_sign : (after (((at_ 0x00#8 0x00#8).setA 0x01#8).setFlags (fl false false false false)) 0xC8#8 0x00#8).map (fun t => (t.a, t.flags)) =
    some (0x80#8, fl false false false true) := by decide
theorem test_inc_a_wraps : (after (((at_ 0x00#8 0x00#8).setA 0xFF#8).setFlags (fl false false false false)) 0xC9#8 0x00#8).map (fun t => (t.a, t.flags)) =
    some (0x00#8, fl true true false false) := by decide
theorem test_dec_a_borrows : (after (((at_ 0x00#8 0x00#8).setA 0x00#8).setFlags (fl false false false false)) 0xCA#8 0x00#8).map (fun t => (t.a, t.flags)) =
    some (0xFF#8, fl false true true true) := by decide
theorem test_dec_a_no_overflow : (after (((at_ 0x00#8 0x00#8).setA 0x80#8).setFlags (fl false false false false)) 0xCA#8 0x00#8).map (fun t => (t.a, t.flags)) =
    some (0x7F#8, fl false false false false) := by decide
theorem test_clr_keeps_flags : (after (((at_ 0x00#8 0x00#8).setA 0x5A#8).setFlags (fl false true true true)) 0xCB#8 0x00#8).map (fun t => (t.a, t.flags)) =
    some (0x00#8, fl false true true true) := by decide
theorem test_cflags_clears : (after (((at_ 0x00#8 0x00#8).setA 0x12#8).setFlags (fl true true true true)) 0xCC#8 0x00#8).map (fun t => (t.a, t.flags)) =
    some (0x12#8, fl false false false false) := by decide
theorem test_jf_register : (after (((at_ 0x00#8 0x00#8).setA 0x12#8).setReg .r3 0x56#8) 0x03#8 0x00#8).map (fun t => (t.cs, t.ip)) = some (0x12#8, 0x56#8) := by decide
theorem test_jn_near : (after ((at_ 0x03#8 0x00#8).setReg .r2 0x80#8) 0x0A#8 0x00#8).map (fun t => (t.cs, t.ip)) = some (0x03#8, 0x80#8) := by decide
theorem test_jn_after_advance : (after (at_ 0x02#8 0xFE#8) 0x08#8 0x10#8).map (fun t => (t.cs, t.ip)) = some (0x03#8, 0x10#8) := by decide
theorem test_jcc_taken_across_segment : (after (at_ 0x02#8 0xFF#8) 0x19#8 0x10#8).map (fun t => (t.cs, t.ip)) = some (0x03#8, 0x10#8) := by decide
theorem test_jcc_not_taken : (after (at_ 0x02#8 0xFF#8) 0x18#8 0x10#8).map (fun t => (t.cs, t.ip)) = some (0x03#8, 0x01#8) := by decide
theorem test_calln_saves : (after (at_ 0x00#8 0x09#8) 0x10#8 0x20#8).map (fun t => (t.csr, t.getReg .lr, t.cs, t.ip)) = some (0x00#8, 0x0B#8, 0x00#8, 0x20#8) := by decide
theorem test_calln_lr_reads_first : (after ((at_ 0x00#8 0x09#8).setReg .lr 0x50#8) 0x15#8 0x00#8).map (fun t => (t.ip, t.getReg .lr)) = some (0x50#8, 0x0A#8) := by decide
theorem test_callf_saves : (after ((at_ 0x01#8 0x10#8).setA 0x40#8) 0x20#8 0x00#8).map (fun t => (t.csr, t.getReg .lr, t.cs, t.ip)) = some (0x01#8, 0x12#8, 0x40#8, 0x00#8) := by decide
theorem test_ret_restores : (after (((at_ 0x05#8 0x30#8).setCsr 0x07#8).setReg .lr 0x0B#8) 0xC1#8 0x00#8).map (fun t => (t.cs, t.ip)) = some (0x07#8, 0x0B#8) := by decide
theorem test_push_rolls_ss : (after ((((at_ 0x00#8 0x00#8).setSs 0x10#8).setReg .sp 0xFF#8).setReg .r1 0xAB#8) 0x29#8 0x00#8).map (fun t => (t.readByte 0x10FF#16, t.ss, t.getReg .sp)) = some (0xAB#8, 0x11#8, 0x00#8) := by decide
theorem test_push_sp_pushes_old : (after (((at_ 0x00#8 0x00#8).setSs 0x10#8).setReg .sp 0x05#8) 0x2E#8 0x00#8).map (fun t => (t.readByte 0x1005#16, t.getReg .sp)) = some (0x05#8, 0x06#8) := by decide
theorem test_push_csr : (after ((((at_ 0x00#8 0x00#8).setSs 0x30#8).setReg .sp 0x00#8).setCsr 0x07#8) 0xCD#8 0x00#8).map (fun t => (t.readByte 0x3000#16, t.getReg .sp)) = some (0x07#8, 0x01#8) := by decide
theorem test_pop_rolls_ss : (after ((((at_ 0x00#8 0x00#8).setSs 0x11#8).setReg .sp 0x00#8).writeByte 0x10FF#16 0x22#8) 0x3A#8 0x00#8).map (fun t => (t.getReg .r2, t.ss, t.getReg .sp)) = some (0x22#8, 0x10#8, 0xFF#8) := by decide
theorem test_pop_sp_keeps_popped : (after ((((at_ 0x00#8 0x00#8).setSs 0x10#8).setReg .sp 0x05#8).writeByte 0x1004#16 0x99#8) 0x3E#8 0x00#8).map (fun t => (t.getReg .sp, t.ss)) = some (0x99#8, 0x10#8) := by decide
theorem test_pop_csr : (after ((((at_ 0x00#8 0x00#8).setSs 0x30#8).setReg .sp 0x01#8).writeByte 0x3000#16 0x07#8) 0xCE#8 0x00#8).map (fun t => (t.csr, t.getReg .sp)) = some (0x07#8, 0x00#8) := by decide

/-- The start state of the vectors L1 to L10. -/
def loadStart : State :=
  ((((((at_ 0x00#8 0x00#8).setA 0xFE#8).setDs 0x11#8).setSs 0x30#8).setCsr 0x05#8).setReg .r2 0x44#8).setReg .bp 0x09#8

theorem test_lda_immediate : (after loadStart 0x30#8 0x03#8).map (fun t => t.a) = some 0x03#8 := by decide
theorem test_lda_bp : (after loadStart 0x37#8 0x00#8).map (fun t => t.a) = some 0x09#8 := by decide
theorem test_sta_sp_no_roll : (after loadStart 0x46#8 0x00#8).map (fun t => (t.getReg .sp, t.ss)) = some (0xFE#8, 0x30#8) := by decide
theorem test_ldds_register : (after loadStart 0x5A#8 0x00#8).map (fun t => t.ds) = some 0x44#8 := by decide
theorem test_stds : (after loadStart 0x61#8 0x00#8).map (fun t => t.getReg .r1) = some 0x11#8 := by decide
theorem test_ldss_immediate : (after loadStart 0x68#8 0x31#8).map (fun t => (t.ss, t.getReg .sp)) = some (0x31#8, 0x00#8) := by decide
theorem test_stss : (after loadStart 0x77#8 0x00#8).map (fun t => t.getReg .bp) = some 0x30#8 := by decide
theorem test_lda_csr : (after loadStart 0xCF#8 0x00#8).map (fun t => t.a) = some 0x05#8 := by decide
theorem test_sta_csr : (after loadStart 0xD0#8 0x00#8).map (fun t => t.csr) = some 0xFE#8 := by decide
theorem test_ldm_bp_uses_ss : (after (((((at_ 0x00#8 0x00#8).setDs 0x11#8).setSs 0x20#8).setReg .bp 0x05#8).writeByte 0x2005#16 0x66#8) 0x4F#8 0x00#8).map (fun t => t.a) = some 0x66#8 := by decide
theorem test_ldm_r1_uses_ds : (after (((((at_ 0x00#8 0x00#8).setDs 0x11#8).setSs 0x20#8).setReg .r1 0x05#8).writeByte 0x1105#16 0x55#8) 0x49#8 0x00#8).map (fun t => t.a) = some 0x55#8 := by decide
theorem test_stm_lr_uses_ds : (after (((((at_ 0x00#8 0x00#8).setDs 0x21#8).setSs 0x11#8).setReg .lr 0x03#8).setA 0x42#8) 0x55#8 0x00#8).map (fun t => t.readByte 0x2103#16) = some 0x42#8 := by decide
theorem test_stm_immediate : (after (((at_ 0x00#8 0x00#8).setDs 0xFF#8).setA 0x42#8) 0x50#8 0xFF#8).map (fun t => t.readByte 0xFFFF#16) = some 0x42#8 := by decide
theorem test_swp_exchanges : (after (((at_ 0x00#8 0x00#8).setA 0x01#8).setReg .r2 0x02#8) 0x7A#8 0x00#8).map (fun t => (t.a, t.getReg .r2)) = some (0x02#8, 0x01#8) := by decide
theorem test_inc_sp_no_roll : (after (((at_ 0x00#8 0x00#8).setSs 0x10#8).setReg .sp 0xFF#8) 0xBE#8 0x00#8).map (fun t => (t.getReg .sp, t.ss, t.flags)) = some (0x00#8, 0x10#8, fl true true false false) := by decide
theorem test_dec_bp_borrows : (after (at_ 0x00#8 0x00#8) 0xB7#8 0x00#8).map (fun t => (t.getReg .bp, t.flags)) = some (0xFF#8, fl false true true true) := by decide

/-- A state with the interrupt vector of the vectors I1 to I8. -/
def irqStart (seg off : Byte) : State :=
  ((at_ seg off).writeByte 0xFFFE#16 0x02#8).setSs 0x30#8

theorem test_nop_advances : (after (at_ 0x00#8 0xFF#8) 0xC0#8 0x00#8).map (fun t => (t.cs, t.ip)) = some (0x01#8, 0x00#8) := by decide
theorem test_eni_takes_no_interrupt : (afterIrq (irqStart 0x00#8 0x02#8) 0xD1#8 0x00#8).map (fun t => (t.ie, t.cs, t.ip)) = some (true, 0x00#8, 0x03#8) := by decide
theorem test_nop_takes_interrupt : (afterIrq ((irqStart 0x00#8 0x03#8).setIe true) 0xC0#8 0x00#8).map (fun t => (t.readByte 0x3000#16, t.readByte 0x3001#16, t.ie, t.cs, t.ip, t.getReg .sp)) = some (0x00#8, 0x04#8, false, 0x02#8, 0x00#8, 0x02#8) := by decide
theorem test_dsi_takes_no_interrupt : (afterIrq ((irqStart 0x00#8 0x00#8).setIe true) 0xD2#8 0x00#8).map (fun t => (t.ie, t.cs, t.ip)) = some (false, 0x00#8, 0x01#8) := by decide
theorem test_iret_returns : (afterIrq (((irqStart 0x05#8 0x00#8).setReg .sp 0x02#8).writeByte 0x3001#16 0x04#8) 0xC2#8 0x00#8).map (fun t => (t.ip, t.cs, t.getReg .sp, t.ie, t.iePend)) = some (0x04#8, 0x00#8, 0x00#8, true, false) := by decide
theorem test_eni_with_ie_set : (afterIrq ((irqStart 0x00#8 0x00#8).setIe true) 0xD1#8 0x00#8).map (fun t => (t.cs, t.ip, t.ie)) = some (0x02#8, 0x00#8, true) := by decide
theorem test_hlt_takes_no_interrupt : (afterIrq ((irqStart 0x00#8 0x08#8).setIe true) 0xC3#8 0x00#8).map (fun t => (t.ip, t.halted, t.haltReason, t.ie)) = some (0x09#8, true, some HaltReason.hlt, true) := by decide
theorem test_entry_over_vector : (afterIrq ((((irqStart 0x12#8 0x34#8).setSs 0xFF#8).setReg .sp 0xFE#8).setIe true) 0xC0#8 0x00#8).map (fun t => (t.cs, t.ip, t.ss, t.getReg .sp)) = some (0x12#8, 0x35#8, 0x00#8, 0x00#8) := by decide
theorem test_entry_rolls_ss : (afterIrq ((((irqStart 0x01#8 0x00#8).writeByte 0xFFFF#16 0x10#8).setReg .sp 0xFF#8).setIe true) 0x08#8 0x80#8).map (fun t => (t.readByte 0x30FF#16, t.readByte 0x3100#16, t.ss, t.getReg .sp, t.cs, t.ip)) = some (0x01#8, 0x80#8, 0x31#8, 0x01#8, 0x02#8, 0x10#8) := by decide
theorem test_no_immediate_halts : (after (at_ 0xFF#8 0xFF#8) 0x30#8 0x00#8).map (fun t => (t.cs, t.ip, t.halted, t.haltReason)) = some (0x00#8, 0x00#8, true, some HaltReason.noImmediate) := by decide
theorem test_invalid_argument_halts : (afterIrq ((irqStart 0x00#8 0x10#8).setIe true) 0x38#8 0xFF#8).map (fun t => (t.cs, t.ip, t.haltReason)) = some (0x00#8, 0x11#8, some HaltReason.invalidArgument) := by decide
theorem test_invalid_opcode_halts : (after (at_ 0x00#8 0x00#8) 0xD3#8 0x00#8).map (fun t => (t.ip, t.haltReason)) = some (0x01#8, some HaltReason.invalidOpCode) := by decide
theorem test_step_runs_a_placed_word : (nextState? (step (State.reset.withFetchWord 16 0x0330))).map (fun t => (t.a, t.ip)) = some (0x03#8, 0x02#8) := by decide
theorem test_memory_write_is_canonical : Memory.write (Memory.write (Memory.write [] 7 1#8) 3 2#8) 7 0#8 = [(3, 2#8)] := by decide

/-! ## Witnesses: concrete states and operands that meet the hypotheses of the statements, clause by clause -/

/-- Reset with the two bytes placed at the program counter. -/
def placed (b0 b1 : Byte) : State :=
  State.reset.placeBytes b0 b1

/-- `T.Valid`, the hypothesis of the codec statements. -/
theorem witness_valid_table : ∃ T : OpTable, T.Valid :=
  ⟨OpTable.default, OpTable.default_valid⟩

theorem witness_CodecLawsUnderEveryTable : OpTable.default.Valid ∧
    encodeWith OpTable.default (.lda (.imm 0x05#8)) = some [0x30#8, 0x05#8] :=
  ⟨OpTable.default_valid, by decide⟩

theorem witness_DecodedBytesAreTheEncoding : OpTable.default.Valid ∧
    decodeWith OpTable.default [0x30#8, 0x05#8, 0xC3#8] = { instr := some (.lda (.imm 0x05#8)), rest := [0xC3#8], reason := .success } :=
  ⟨OpTable.default_valid, by decide⟩

theorem witness_DecodeConsumption : OpTable.default.Valid ∧
    (decodeWith OpTable.default []).reason = .noData ∧ (decodeWith OpTable.default [0xD3#8]).reason = .invalidOpCode ∧
    (decodeWith OpTable.default [0x38#8, 0xFF#8]).reason = .invalidArgument ∧
    (decodeWith OpTable.default [0x30#8]).reason = .noImmediate ∧
    (decodeWith OpTable.default [0xC0#8]).instr = some .nop ∧
    (decodeWith OpTable.default [0x1F#8, 0x7F#8]).instr = some (.jcc { flag := .negative, negate := true } 0x7F#8) :=
  ⟨OpTable.default_valid, by decide⟩

theorem witness_LengthFromTheFirstByte : OpTable.default.Valid ∧
    (decodeWith OpTable.default [0x30#8, 0x05#8]).reason = .success ∧ lengthFromFirstByte OpTable.default 0x30#8 = 2 ∧
    (decodeWith OpTable.default [0x31#8, 0x05#8]).reason = .success ∧ lengthFromFirstByte OpTable.default 0x31#8 = 1 ∧
    (decodeWith OpTable.default [0x30#8]).reason = .noImmediate :=
  ⟨OpTable.default_valid, by decide⟩

theorem witness_EncodeFormats : OpTable.default.Valid ∧
    (OpTable.default.noarg 18#6 = some .dsi ∧ createNoArg .dsi = some .dsi) ∧
    (OpTable.default.fam 23#5 = some (.inc, .regOnly) ∧ createReg .inc 7#3 = some (.inc .bp)) ∧
    (OpTable.default.fam 0#5 = some (.jf, .immReg) ∧ createImm .jf 0xFF#8 = some (.jf (.imm 0xFF#8))) ∧
    (OpTable.default.fam 3#5 = some (.jcc, .cond) ∧
      createCond .jcc (Cond.ofBits 7#3) 0#8 = some (.jcc { flag := .negative, negate := true } 0#8)) :=
  ⟨OpTable.default_valid, ⟨by decide, by decide⟩, ⟨by decide, by decide⟩, ⟨by decide, by decide⟩, ⟨by decide, by decide⟩⟩

theorem witness_SourceBytesUnderEveryTable : OpTable.default.Valid ∧
    decode [0x38#8, 0xFF#8] = { instr := none, rest := [0xFF#8], reason := .invalidArgument } ∧
    decode [0xB0#8, 0x01#8] = { instr := none, rest := [0x01#8], reason := .invalidArgument } :=
  ⟨OpTable.default_valid, by decide, by decide⟩

theorem witness_DefaultTableWordsDecode : 0xD3 ≤ (0xD3#8).toNat ∧ 0xD3 ≤ (0xFF#8).toNat ∧ ¬ 0xD3 ≤ (0xD2#8).toNat := by decide

theorem witness_ConstructorsRefuseIllFormedShapes : create (.reg .pop 1#3) = some (.pop .r1) := by decide

theorem witness_ArgumentValueAndSegmentAddress : segAddr 0xFF#8 0xFE#8 = 0xFFFE#16 := by decide

/-- The registers other than the named ones, which the frames speak of. -/
theorem witness_other_registers : Reg.r1 ≠ .lr ∧ Reg.r1 ≠ .sp ∧ Reg.bp ≠ .sp ∧ Reg.sp ≠ .r1 := by decide

theorem witness_PushStoresAndAdvancesTheStack :
    (∃ o, Instr.push (.reg .sp) = .push o ∧ State.reset.getReg .sp = argval o State.reset) ∧
    (Instr.pushCsr = .pushCsr ∧ State.reset.csr = 0#8) :=
  ⟨⟨.reg .sp, rfl, rfl⟩, rfl, rfl⟩

theorem witness_StoresIntoBankRegisters :
    (Instr.stds .sp = .stds .sp ∧ State.reset.ds = 0#8) ∧ (Instr.stss .bp = .stss .bp ∧ State.reset.ss = 0#8) ∧
    (Instr.sta .r1 = .sta .r1 ∧ State.reset.a = 0#8) := by decide

theorem witness_StepRunsTheDecodedInstruction :
    (placed 0x30#8 0x05#8).halted = false ∧ (decode (placed 0x30#8 0x05#8).fetchBytes).instr = some (.lda (.imm 0x05#8)) ∧
    (placed 0xC3#8 0x00#8).halted = false ∧ (decode (placed 0xC3#8 0x00#8).fetchBytes).instr = some .hlt := by decide

theorem witness_DecodeFailureHalts : OpTable.default.Valid ∧ (placed 0xD3#8 0x00#8).halted = false ∧
    (fetchDecode OpTable.default (placed 0xD3#8 0x00#8)).instr = none ∧
    (fetchDecode OpTable.default (placed 0x38#8 0x00#8)).instr = none ∧
    (fetchDecode OpTable.default ((at_ 0xFF#8 0xFF#8).placeBytes 0x30#8 0x00#8)).instr = none :=
  ⟨OpTable.default_valid, by decide⟩

/-- The first byte at the bounds of each clause, in the middle of memory and at its last byte. -/
theorem witness_CausesOfDecodeFailure :
    State.reset.halted = false ∧
    ((placed 0xD2#8 0#8).readByte 0#16).toNat = 0xD2 ∧ (decode (placed 0xD2#8 0#8).fetchBytes).instr = some .dsi ∧
    ((placed 0xD3#8 0#8).readByte 0#16).toNat = 0xD3 ∧ (decode (placed 0xD3#8 0#8).fetchBytes).reason = .invalidOpCode ∧
    ((placed 0xFF#8 0#8).readByte 0#16).toNat = 0xFF ∧ (decode (placed 0xFF#8 0#8).fetchBytes).reason = .invalidOpCode ∧
    (decode (placed 0x38#8 0#8).fetchBytes).reason = .invalidArgument ∧ (decode (placed 0xB8#8 0#8).fetchBytes).reason = .invalidArgument ∧
    (decode ((at_ 0xFF#8 0xFF#8).placeBytes 0xB0#8 0#8).fetchBytes).reason = .invalidArgument ∧
    (decode ((at_ 0xFF#8 0xFF#8).placeBytes 0x18#8 0#8).fetchBytes).reason = .noImmediate ∧
    (decode ((at_ 0xFF#8 0xFF#8).placeBytes 0x1F#8 0#8).fetchBytes).reason = .noImmediate ∧
    (decode ((at_ 0xFF#8 0xFF#8).placeBytes 0x17#8 0#8).fetchBytes).instr = some (.calln (.reg .bp)) ∧
    (decode ((at_ 0xFF#8 0xFF#8).placeBytes 0x20#8 0#8).fetchBytes).reason = .noImmediate ∧
    (decode ((at_ 0xFF#8 0xFF#8).placeBytes 0xC0#8 0#8).fetchBytes).instr = some .nop ∧
    (decode ((at_ 0xFF#8 0xFE#8).placeBytes 0x20#8 0#8).fetchBytes).instr = some (.callf (.imm 0#8)) := by decide

theorem witness_HaltedCoreHasNoCycle :
    (State.reset.haltWith (some .hlt)).CleanHalt ∧ (State.reset.haltWith (some .noImmediate)).FailedHalt :=
  ⟨⟨rfl, rfl⟩, rfl, .inr (.inr rfl)⟩

theorem witness_EveryDecodedInstructionCompletes : State.reset.halted = false ∧
    ∃ t, cycle OpTable.default true (placed 0xD3#8 0#8) = .next t ∧ t.FailedHalt :=
  ⟨rfl, _, rfl, rfl, .inl rfl⟩

theorem witness_OnlyHltAndDecodeFailuresHalt :
    (∃ t, cycle OpTable.default true (placed 0xC3#8 0#8) = .next t ∧ (fetchDecode OpTable.default (placed 0xC3#8 0#8)).instr = some .hlt) ∧
    (∃ t, cycle OpTable.default true (placed 0xC0#8 0#8) = .next t ∧ t.halted = false) :=
  ⟨⟨_, rfl, by decide⟩, _, rfl, rfl⟩

theorem witness_InterruptCheckAfterTheInstruction :
    (∃ u, exec .hlt (executeState OpTable.default (placed 0xC3#8 0#8)) = .next u ∧
      (fetchDecode OpTable.default (placed 0xC3#8 0#8)).instr = some .hlt) ∧
    (∃ u, exec .nop (executeState OpTable.default ((placed 0xC0#8 0#8).setIe true)) = .next u ∧ u.ie = true ∧
      (fetchDecode OpTable.default ((placed 0xC0#8 0#8).setIe true)).instr = some .nop) ∧
    (∃ u, exec .nop (executeState OpTable.default (placed 0xC0#8 0#8)) = .next u ∧ u.ie = false ∧
      (fetchDecode OpTable.default (placed 0xC0#8 0#8)).instr = some .nop) :=
  ⟨⟨_, rfl, by decide⟩, ⟨_, rfl, rfl, by decide⟩, _, rfl, rfl, by decide⟩

theorem witness_EnableLatchIsTheLastAction :
    (∃ u, exec .eni (executeState OpTable.default (placed 0xD1#8 0#8)) = .next u ∧ (placed 0xD1#8 0#8).ie = false ∧
      (fetchDecode OpTable.default (placed 0xD1#8 0#8)).instr = some .eni) ∧
    (∃ u, exec .iret (executeState OpTable.default ((placed 0xC2#8 0#8).setIe true)) = .next u ∧ ((placed 0xC2#8 0#8).setIe true).ie = true ∧
      (fetchDecode OpTable.default ((placed 0xC2#8 0#8).setIe true)).instr = some .iret) :=
  ⟨⟨_, rfl, rfl, by decide⟩, _, rfl, rfl, by decide⟩

theorem witness_EnableIsDelayedByOneCycle :
    ((placed 0xD1#8 0#8).halted = false ∧ (placed 0xD1#8 0#8).ie = false ∧ (fetchDecode OpTable.default (placed 0xD1#8 0#8)).instr = some .eni) ∧
    ((placed 0xD2#8 0#8).halted = false ∧ (fetchDecode OpTable.default ((placed 0xD2#8 0#8).setIe true)).instr = some .dsi) := by decide

theorem witness_LatchAfterEntryLeavesInterruptsEnabled :
    ((placed 0xD1#8 0#8).setIe true).halted = false ∧ ((placed 0xD1#8 0#8).setIe true).ie = true ∧
    (fetchDecode OpTable.default ((placed 0xD1#8 0#8).setIe true)).instr = some .eni ∧
    (fetchDecode OpTable.default ((placed 0xC2#8 0#8).setIe true)).instr = some .iret := by decide

theorem witness_EntryOverTheVectorSlot :
    (((State.reset.setSs 0xFF#8).setReg .sp 0xFE#8).ss = 0xFF#8 ∧ ((State.reset.setSs 0xFF#8).setReg .sp 0xFE#8).getReg .sp = 0xFE#8) ∧
    ((State.reset.setSs 0xFF#8).setReg .sp 0xFD#8).getReg .sp = 0xFD#8 := by decide

theorem witness_RequestIsMaskedByInterruptEnable : State.reset.ie = false := rfl

theorem witness_EveryStepKeepsTheMachineInvariant : (placed 0x28#8 0x11#8).Inv ∧ ∃ t, step (placed 0x28#8 0x11#8) = .next t :=
  ⟨⟨by decide, rfl, rfl⟩, _, rfl⟩

theorem witness_ResetMeetsTheMachineInvariant : Memory.wf [(0x0000, 0x30#8), (0xFFFF, 0x01#8)] = true := by decide

theorem witness_FlagsChangeOnlyByTheirWriters :
    (∃ t, exec .clr State.reset = .next t) ∧ (∃ t, exec .shl State.reset = .next t) ∧ (∃ t, exec .rol State.reset = .next t) ∧
    (¬ ((∃ o, Instr.clr = .add o ∨ Instr.clr = .adc o ∨ Instr.clr = .sub o ∨ Instr.clr = .and o ∨ Instr.clr = .or o ∨ Instr.clr = .xor o) ∨
      (∃ r, Instr.clr = .inc r ∨ Instr.clr = .dec r) ∨ Instr.clr = .incA ∨ Instr.clr = .decA ∨ Instr.clr = .cflags)) :=
  ⟨⟨_, rfl⟩, ⟨_, rfl⟩, ⟨_, rfl⟩, by simp⟩

theorem witness_SavedCodeSegmentWritersAndReaders :
    (∃ t, exec (.calln (.imm 0#8)) State.reset = .next t) ∧ (∃ t, exec .staCsr State.reset = .next t) ∧
    (∃ t, exec .popCsr State.reset = .next t) ∧ (∃ t, exec .nop State.reset = .next t) ∧
    (¬ ∃ o, Instr.nop = .calln o ∨ Instr.nop = .callf o) ∧ Instr.nop ≠ .staCsr ∧ Instr.nop ≠ .popCsr ∧
    Instr.nop ≠ .ret ∧ Instr.nop ≠ .ldaCsr ∧ Instr.nop ≠ .pushCsr :=
  ⟨⟨_, rfl⟩, ⟨_, rfl⟩, ⟨_, rfl⟩, ⟨_, rfl⟩, by simp, by decide⟩

/-- `STA SP` is outside all three sets of writers. -/
theorem witness_SegmentRegistersChangeOnlyByTheirWriters :
    (∃ t, exec (.sta .sp) State.reset = .next t) ∧ (¬ ∃ o, Instr.sta .sp = .jf o ∨ Instr.sta .sp = .callf o) ∧
    (¬ ∃ o, Instr.sta .sp = .ldds o) ∧ (¬ ∃ o, Instr.sta .sp = .ldss o ∨ Instr.sta .sp = .push o) ∧
    (¬ ∃ r, Instr.sta .sp = .pop r) ∧ Instr.sta .sp ≠ .ret ∧ Instr.sta .sp ≠ .iret ∧ Instr.sta .sp ≠ .pushCsr ∧
    Instr.sta .sp ≠ .popCsr :=
  ⟨⟨_, rfl⟩, by simp, by simp, by simp, by simp, by decide⟩

/-- `POP R1` writes neither R2 nor LR; `PUSH` does not write R1. -/
theorem witness_BankRegistersChangeOnlyByTheirWriters :
    (∃ t, exec (.pop .r1) State.reset = .next t) ∧ (∃ t, exec (.push (.reg .sp)) State.reset = .next t) ∧
    Instr.pop .r1 ≠ .pop .r2 ∧ Instr.pop .r1 ≠ .pop .lr ∧ Reg.r2 ≠ .lr ∧ Reg.r2 ≠ .sp ∧
    ¬ (Reg.lr = .lr ∧ ∃ o, Instr.pop .r1 = .calln o ∨ Instr.pop .r1 = .callf o) :=
  ⟨⟨_, rfl⟩, ⟨_, rfl⟩, by decide, by decide, by decide, by decide, by simp⟩

theorem witness_MemoryChangesOnlyByStores :
    (∃ t, exec (.stm (.imm 0xFF#8)) State.reset = .next t) ∧ (∃ t, exec (.push (.reg .sp)) State.reset = .next t) ∧
    (∃ t, exec .pushCsr State.reset = .next t) ∧ (∃ t, exec .iret State.reset = .next t) ∧
    (¬ ∃ o, Instr.iret = .stm o ∨ Instr.iret = .push o) ∧ Instr.iret ≠ .pushCsr :=
  ⟨⟨_, rfl⟩, ⟨_, rfl⟩, ⟨_, rfl⟩, ⟨_, rfl⟩, by simp, by decide⟩

theorem witness_InterruptEnableWriters :
    (∃ t, cycle OpTable.default true (placed 0xD1#8 0#8) = .next t ∧ (placed 0xD1#8 0#8).ie = false ∧ t.ie = true) ∧
    (State.reset.setIePend true).iePend = true ∧ State.reset.iePend = false :=
  ⟨⟨_, rfl, rfl, rfl⟩, rfl, rfl⟩

/-- The instruction DEC R1 of the program [SHL, DEC R1], whose segment stands in the last segment of memory. -/
theorem witness_AssembledInstructionsAreFetched :
    (0xFF#8).toNat + (assembleProgram OpTable.default ([.shl] ++ .dec .r1 :: [])).length ≤ 256 ∧
    (∀ (j k : Nat) (seg : List Byte) (b : Byte),
      (assembleProgram OpTable.default ([.shl] ++ .dec .r1 :: []))[j]? = some seg → seg[k]? = some b →
      (((at_ 0xFF#8 0x01#8).writeByte 0xFF00#16 0xC4#8).writeByte 0xFF01#16 0xB1#8).readByte
        (segAddr (0xFF#8 + BitVec.ofNat 8 j) (BitVec.ofNat 8 k)) = b) ∧
    (((at_ 0xFF#8 0x01#8).writeByte 0xFF00#16 0xC4#8).writeByte 0xFF01#16 0xB1#8).pc =
      segAddr 0xFF#8 0x00#8 + BitVec.ofNat 16 ([Instr.shl].flatMap (bytesWith OpTable.default)).length := by
  have hp : assembleProgram OpTable.default ([.shl] ++ .dec .r1 :: []) = [[0xC4#8, 0xB1#8]] := by decide
  refine ⟨by decide, ?_, by decide⟩
  intro j k seg b hj hk
  rw [hp] at hj
  match j, k with
  | 0, 0 => cases hj; cases hk; decide
  | 0, 1 => cases hj; cases hk; decide
  | 0, k + 2 => cases hj; cases hk
  | j + 1, _ => cases hj

/-- A chunk is left over, and a byte deferred, only from a full segment: the loop with one slot left (R74). -/
theorem witness_SegmentsConserveTheStream : OpTable.default.Valid ∧
    (assembleFrom OpTable.default 255 [.lda (.imm 0x05#8)]).deferred ≠ none ∧
    (assembleFrom OpTable.default 255 [.shl, .ret]).leftover ≠ [] :=
  ⟨OpTable.default_valid, by decide, by decide⟩

theorem witness_StoredBytesAreFetched : State.reset.pc ≠ 0xFFFF#16 ∧ (at_ 0xFF#8 0xFF#8).pc = 0xFFFF#16 ∧
    (0x1234#16 ≠ State.reset.pc ∧ 0x1234#16 ≠ State.reset.pc + 1#16) := by decide


end Sys2Proof.Tests
end

section
/-! The state rules of 10_state.md about the saved code segment `csr` (R23) and the interrupt enable `ie` (R28): what one executed
instruction does to each, said once, then the two statements. -/

namespace Sys2Proof.Machine

/-- `Jcc`, the one instruction that branches, either sets `ip` or changes nothing (R79). -/
theorem exec_jcc_cases {c : Cond} {v : Byte} {s t : State} (h : exec (.jcc c v) s = .next t) : t = s.setIp v ∨ t = s := by
  cases h
  split
  · exact .inl rfl
  · exact .inr rfl

/-! ## The saved code segment -/

/-- The byte that `csr` holds after an instruction (R23): the four writers of the rule, and `csr` itself under every other. -/
def csrAfter (i : Instr) (s : State) : Byte :=
  match i with
  | .calln _ | .callf _ => s.cs
  | .staCsr => s.a
  | .popCsr => s.popValue
  | _ => s.csr

/-- The one value that execution gives `csr`. -/
theorem exec_csr {i : Instr} {s t : State} (h : exec i s = .next t) : t.csr = csrAfter i s := by
  cases i with
  | jcc c v => obtain rfl | rfl := exec_jcc_cases h <;> rfl
  | _ =>
    cases h
    rfl

theorem csrAfter_of_call {i : Instr} (s : State) (h : ∃ o, i = .calln o ∨ i = .callf o) : csrAfter i s = s.cs := by
  obtain ⟨o, rfl | rfl⟩ := h <;> rfl

theorem csrAfter_of_not_writer {i : Instr} (s : State) (hcall : ¬ ∃ o, i = .calln o ∨ i = .callf o) (hsta : i ≠ .staCsr)
    (hpop : i ≠ .popCsr) : csrAfter i s = s.csr := by
  cases i with
  | calln o => exact absurd ⟨o, .inl rfl⟩ hcall
  | callf o => exact absurd ⟨o, .inr rfl⟩ hcall
  | staCsr => exact absurd rfl hsta
  | popCsr => exact absurd rfl hpop
  | _ => rfl

/-- Non-interference of `csr` (R23): an instruction that does not read it takes two states that differ in `csr` only to two
states that differ in `csr` only. The three readers are excluded by hypothesis; every other instruction computes its
result from the other fields alone, the test of `Jcc` included, so that the two results agree field by field. -/
theorem exec_congr_csr {i : Instr} {s t : State} (v : Byte) (h : exec i s = .next t) (hret : i ≠ .ret) (hlda : i ≠ .ldaCsr)
    (hpush : i ≠ .pushCsr) : ∃ t', exec i { s with csr := v } = .next t' ∧ t' = { t with csr := t'.csr } := by
  cases i with
  | ret => exact absurd rfl hret
  | ldaCsr => exact absurd rfl hlda
  | pushCsr => exact absurd rfl hpush
  | jcc c off =>
    cases h
    refine ⟨_, rfl, ?_⟩
    by_cases hc : condHolds c s.flags <;> simp [hc, State.setIp]
  | _ =>
    cases h
    exact ⟨_, rfl, rfl⟩

/-- Settles O55: the writers by `exec_csr`, the readers by non-interference of `csr` for every other instruction. -/
theorem savedCodeSegmentWritersAndReaders : Obligations.SavedCodeSegmentWritersAndReaders := by
  refine ⟨fun i s t h => ?writers, State.interruptEntry_csr, fun i s t v h => exec_congr_csr v h, fun s => ?readers⟩
  case writers =>
    rw [exec_csr h]
    refine ⟨csrAfter_of_call s, ?_, ?_, csrAfter_of_not_writer s⟩
    · rintro rfl
      rfl
    · rintro rfl
      rfl
  case readers =>
    exact ⟨⟨_, rfl, rfl⟩, ⟨_, rfl, rfl⟩, ⟨_, rfl, by simp [State.readByte_push]⟩⟩

/-! ## The interrupt enable -/

/-- `DSI` alone writes `ie` (R28): `ENI` and `IRET` only queue the enable. -/
theorem exec_ie {i : Instr} {s t : State} (h : exec i s = .next t) : t.ie = if i = .dsi then false else s.ie := by
  cases i with
  | jcc c v => obtain rfl | rfl := exec_jcc_cases h <;> rfl
  | _ =>
    cases h
    rfl

/-- `ENI` and `IRET` alone write the enable latch, and both set it (R29, R122, R124). -/
theorem exec_iePend {i : Instr} {s t : State} (h : exec i s = .next t) :
    t.iePend = if i = .eni ∨ i = .iret then true else s.iePend := by
  cases i with
  | jcc c v => obtain rfl | rfl := exec_jcc_cases h <;> rfl
  | _ =>
    cases h
    rfl

@[simp] theorem executeState_ie (T : OpTable) (s : State) : (executeState T s).ie = s.ie := rfl
@[simp] theorem executeState_iePend (T : OpTable) (s : State) : (executeState T s).iePend = false := rfl
@[simp] theorem decodeFailureState_ie (T : OpTable) (s : State) : (decodeFailureState T s).ie = s.ie := rfl
@[simp] theorem enableLatch_ie (s : State) : (enableLatch s).ie = (s.ie || s.iePend) := by
  rw [enableLatch_eq]

/-- The end of a cycle turns `ie` on through the latch only: with `ie` off there is no interrupt to enter (R126, R128). -/
theorem iePend_of_endCycle_ie {i : Instr} {irq : Bool} {s : State} (hs : s.ie = false) (h : (endCycle i irq s).ie = true) :
    s.iePend = true := by
  by_cases hhlt : i = .hlt
  · subst hhlt
    simp [hs] at h
  · simpa [endCycle_of_ne i irq s hhlt, hs] using h

/-- A cycle that turns `ie` on has decoded one of the two instructions that set the latch (R28, R128). -/
theorem instr_of_cycle_sets_ie {T : OpTable} {irq : Bool} {s t : State} (h : cycle T irq s = .next t) (hs : s.ie = false)
    (ht : t.ie = true) : (fetchDecode T s).instr = some .eni ∨ (fetchDecode T s).instr = some .iret := by
  obtain ⟨-, ⟨-, rfl⟩ | ⟨i, u, hi, hu, rfl⟩⟩ := cycle_next h
  · simp [hs] at ht
  · have hie : u.ie = false := by simp [exec_ie hu, hs]
    have hpend : u.iePend = true := iePend_of_endCycle_ie hie ht
    have hwriter : i = .eni ∨ i = .iret := by simpa [exec_iePend hu] using hpend
    simpa [hi] using hwriter

/-- The cycle of a running core whose decoded instruction executes to `u`: the converse of `cycle_next` (R126). -/
theorem cycle_of_exec {T : OpTable} {s u : State} {i : Instr} (irq : Bool) (hrun : s.halted = false)
    (hi : (fetchDecode T s).instr = some i) (hu : exec i (executeState T s) = .next u) :
    cycle T irq s = .next (endCycle i irq u) := by
  simp [cycle, hrun, hi, hu]

/-- The interrupt check enters exactly when `ie` and the request are true (R126). -/
theorem interruptCheck_eq_ite (irq : Bool) (s : State) :
    interruptCheck irq s = if s.ie = true ∧ irq = true then s.interruptEntry else s := by
  simp [interruptCheck]

/-- Settles O59: `DSI` and entry clear `ie`, the latch alone sets it, and the check of every cycle but that of `HLT` reads it. -/
theorem interruptEnableWriters : Obligations.InterruptEnableWriters := by
  refine ⟨fun i s t h => exec_ie h, State.interruptEntry_ie, fun s => ?latch, fun T irq s t h => instr_of_cycle_sets_ie h,
    fun T irq s u i hrun hi hu hhlt => ?check⟩
  case latch =>
    constructor <;> intro hp <;> simp [hp]
  case check =>
    rw [cycle_of_exec irq hrun hi hu, endCycle_of_ne i irq u hhlt, interruptCheck_eq_ite]

end Sys2Proof.Machine
end

section
/-! The codec of 30_encoding.md: what the constructors build (R62), the encoder's bytes (R63) and the decoder's branches on a
first byte written by its fields (R64), each said once, then the statements of the laws (R68), of the bytes consumed (R65),
of the constructors (R62), of the formats (R63) and of the memory operand (R71). -/

namespace Sys2Proof

/-! ## Construction (R61, R62) -/

@[simp] theorem Reg.isSome_ofBits (b : BitVec 3) : (Reg.ofBits b).isSome = (b != 0#3) := by
  revert b
  decide

/-- A builder fits a mnemonic when it takes the operands of the mnemonic's kind (R59) and what it builds has the shape of the
mnemonic with those operands (R61). -/
def Builder.Fits (op : Mnemonic) : Builder → Prop
  | .noArg i => op.kind = none ∧ i.shape = .noArg op
  | .immReg f => op.kind = some .immReg ∧ ∀ o, (f o).shape = o.shape op
  | .regOnly f => op.kind = some .regOnly ∧ ∀ r, (f r).shape = .reg op r.bits
  | .cond f => op.kind = some .cond ∧ ∀ c v, (f c v).shape = .condImm op c v

theorem Mnemonic.fits_of_builder {op : Mnemonic} {b : Builder} (h : op.builder = b) : b.Fits op := by
  subst h
  cases op <;> constructor <;> intros <;> rfl

/-- The constructors accept exactly the well-formed shapes (R62). -/
theorem isSome_create (sh : Shape) : (create sh).isSome = sh.wellFormed := by
  cases sh with
  | noArg op | reg op _ | imm op _ | condImm op _ _ =>
    cases hb : op.builder with
    | noArg _ | immReg _ | regOnly _ | cond _ =>
      obtain ⟨hkind, -⟩ := Mnemonic.fits_of_builder hb
      simp [create, createNoArg, createReg, createImm, createCond, Shape.wellFormed, hb, hkind]

/-- What a constructor yields has the shape asked for (R62): the builders that refuse the operands yield nothing, the others
keep them. -/
theorem shape_of_create {sh : Shape} {i : Instr} (h : create sh = some i) : i.shape = sh := by
  cases sh with
  | noArg op | imm op _ | condImm op _ _ =>
    cases hb : op.builder <;> simp [create, createNoArg, createImm, createCond, hb] at h
    obtain ⟨-, hshape⟩ := Mnemonic.fits_of_builder hb
    simp [← h, hshape, Arg.shape]
  | reg op r =>
    cases hb : op.builder <;> simp [create, createReg, hb] at h
    all_goals
      obtain ⟨q, hq, rfl⟩ := h
      obtain ⟨-, hshape⟩ := Mnemonic.fits_of_builder hb
      simp [hshape, Arg.shape, Reg.bits_of_ofBits hq]

/-- The constructor of an instruction's own shape gives the instruction back (R61, R62). -/
@[simp] theorem create_shape (i : Instr) : create i.shape = some i := by
  cases i with
  | jf o | jn o | calln o | callf o | push o | ldds o | ldss o | lda o | ldm o | stm o | add o | adc o | sub o | and o | or o
  | xor o => exact (Laws.create_shape_immReg _ _ rfl rfl o).2
  | pop r | stds r | stss r | sta r | swp r | inc r | dec r => exact (Laws.create_shape_regOnly _ _ rfl rfl r).2
  | _ => rfl

theorem wellFormed_shape (i : Instr) : i.shape.wellFormed = true := by
  simp [← isSome_create]

/-- Settles O5: acceptance by `isSome_create`, read shape by shape, and the shape of the result by `shape_of_create`. -/
theorem constructorsRefuseIllFormedShapes : Obligations.ConstructorsRefuseIllFormedShapes := by
  refine ⟨fun op => ?noArg, fun op r => ?reg, fun op v => ?imm, fun op c v => ?cond, fun sh i => shape_of_create⟩
  case noArg => simpa [create, Shape.wellFormed] using Bool.eq_iff_iff.mp (isSome_create (.noArg op))
  case reg => simpa [create, Shape.wellFormed] using Bool.eq_iff_iff.mp (isSome_create (.reg op r))
  case imm => simpa [create, Shape.wellFormed] using Bool.eq_iff_iff.mp (isSome_create (.imm op v))
  case cond => simpa [create, Shape.wellFormed] using Bool.eq_iff_iff.mp (isSome_create (.condImm op c v))

/-! ## Encode (R63) -/

/-- The first hit of a search is the one element that can be a hit. -/
theorem find?_eq_some_of_unique {α : Type} {p : α → Bool} {l : List α} {x : α} (hx : x ∈ l) (hp : p x = true)
    (huniq : ∀ y, p y = true → y = x) : l.find? p = some x := by
  obtain ⟨y, hy⟩ := Option.isSome_iff_exists.mp (List.find?_isSome.mpr ⟨x, hx, hp⟩)
  rw [hy, huniq y (List.find?_some hy)]

theorem mem_map_ofNat_range {w n : Nat} {x : BitVec w} (h : x.toNat < n) : x ∈ (List.range n).map (BitVec.ofNat w) :=
  List.mem_map.mpr ⟨x.toNat, List.mem_range.mpr h, BitVec.eq_of_toNat_eq (by simp)⟩

/-- A valid table gives a no-argument mnemonic the id that names it (R57). -/
theorem OpTable.Valid.noargId_eq {T : OpTable} (hT : T.Valid) {id : BitVec 6} {op : Mnemonic} (h : T.noarg id = some op) :
    T.noargId op = some id := by
  refine find?_eq_some_of_unique (mem_map_ofNat_range id.isLt) (by simp [h]) fun id' h' => ?_
  exact hT.noarg_inj _ _ op (by simpa using h') h

/-- A valid table gives a family's mnemonic the id that names it (R57). -/
theorem OpTable.Valid.famId_eq {T : OpTable} (hT : T.Valid) {f : BitVec 5} {op : Mnemonic} {k : ArgKind}
    (h : T.fam f = some (op, k)) : T.famId op = some f := by
  obtain ⟨-, hlt⟩ := hT.fam_kind f op k h
  refine find?_eq_some_of_unique (mem_map_ofNat_range hlt) (by simp [h]) fun f' h' => ?_
  obtain ⟨k', hk'⟩ : ∃ k', T.fam f' = some (op, k') := by simpa using h'
  exact hT.fam_inj _ _ op _ _ hk' h

/-- The number of bytes of a shape (R63). -/
def Shape.byteLength : Shape → Nat
  | .noArg _ | .reg _ _ => 1
  | .imm _ _ | .condImm _ _ _ => 2

theorem length_of_encodeShape {T : OpTable} {sh : Shape} {enc : List Byte} (h : encodeShape T sh = some enc) :
    enc.length = sh.byteLength := by
  cases sh <;> obtain ⟨x, -, rfl⟩ := Option.map_eq_some_iff.mp h <;> rfl

section Formats

variable {T : OpTable} (hT : T.Valid) {op : Mnemonic} {id : BitVec 6} {f : BitVec 5} {k : ArgKind}
include hT

theorem encodeShape_noArg (h : T.noarg id = some op) : encodeShape T (.noArg op) = some [0b11#2 ++ id] := by
  simp [encodeShape, hT.noargId_eq h]

theorem encodeShape_reg (h : T.fam f = some (op, k)) (r : BitVec 3) : encodeShape T (.reg op r) = some [f ++ r] := by
  simp [encodeShape, hT.famId_eq h]

theorem encodeShape_imm (h : T.fam f = some (op, k)) (v : Byte) : encodeShape T (.imm op v) = some [f ++ 0#3, v] := by
  simp [encodeShape, hT.famId_eq h]

theorem encodeShape_condImm (h : T.fam f = some (op, k)) (c : Cond) (v : Byte) :
    encodeShape T (.condImm op c v) = some [f ++ c.bits, v] := by
  simp [encodeShape, hT.famId_eq h]

end Formats

/-- An instruction is encoded by the shape that it was created from (R63). -/
theorem encodeWith_of_create {T : OpTable} {sh : Shape} {i : Instr} (h : create sh = some i) :
    encodeWith T i = encodeShape T sh := by
  rw [encodeWith, shape_of_create h]

/-- Settles O6: an instruction is encoded by its shape, with the id under which the valid table lists its mnemonic. -/
theorem encodeFormats : Obligations.EncodeFormats := by
  intro T hT
  refine ⟨fun id op i hid hi => ?noArg, fun f k op r i hf hi => ?reg, fun f k op v i hf hi => ?imm,
    fun f k op c v i hf hi => ?cond, ?dec⟩
  case noArg => exact (encodeWith_of_create (sh := .noArg op) hi).trans (encodeShape_noArg hT hid)
  case reg => exact (encodeWith_of_create (sh := .reg op r) hi).trans (encodeShape_reg hT hf r)
  case imm => exact (encodeWith_of_create (sh := .imm op v) hi).trans (encodeShape_imm hT hf v)
  case cond => exact (encodeWith_of_create (sh := .condImm op c v) hi).trans (encodeShape_condImm hT hf c v)
  case dec => exact encodeShape_reg hT hT.src_dec Reg.r1.bits

/-! ## The fields of a first byte (R54, R63) -/

section Fields

variable (id : BitVec 6) (f : BitVec 5) (r : BitVec 3)

theorem noArgByte_top : (0b11#2 ++ id).extractLsb' 6 2 = 0b11#2 := BitVec.extractLsb'_append_eq_left

theorem noArgByte_id : (0b11#2 ++ id).extractLsb' 0 6 = id := BitVec.extractLsb'_append_eq_right

theorem famByte_family : (f ++ r).extractLsb' 3 5 = f := BitVec.extractLsb'_append_eq_left

theorem famByte_argument : (f ++ r).extractLsb' 0 3 = r := BitVec.extractLsb'_append_eq_right

/-- A family id of 24 or more would put the two top bits of the no-argument bytes in place (R54). -/
theorem famByte_top_iff : (f ++ r).extractLsb' 6 2 = 0b11#2 ↔ 24 ≤ f.toNat := by
  rw [BitVec.extractLsb'_append_eq_of_le (by decide)]
  revert f
  decide

end Fields

/-- A first byte is a no-argument byte, or a family id below 24 with an argument field (R54). -/
theorem firstByte_cases (b : Byte) :
    (∃ id : BitVec 6, b = 0b11#2 ++ id) ∨ ∃ (f : BitVec 5) (r : BitVec 3), f.toNat < 24 ∧ b = f ++ r := by
  have hnoArg : b.extractLsb' 6 2 ++ b.extractLsb' 0 6 = b :=
    (BitVec.extractLsb'_append_extractLsb'_eq_extractLsb' rfl).trans BitVec.extractLsb'_eq_self
  have hfam : b.extractLsb' 3 5 ++ b.extractLsb' 0 3 = b :=
    (BitVec.extractLsb'_append_extractLsb'_eq_extractLsb' rfl).trans BitVec.extractLsb'_eq_self
  by_cases htop : b.extractLsb' 6 2 = 0b11#2
  · exact .inl ⟨b.extractLsb' 0 6, by rw [← htop, hnoArg]⟩
  · refine .inr ⟨_, _, ?_, hfam.symm⟩
    rw [← hfam, famByte_top_iff] at htop
    exact Nat.lt_of_not_le htop

/-! ## Decode (R64), one equation for each branch -/

section Branches

variable {T : OpTable} {id : BitVec 6} {f : BitVec 5} {r : BitVec 3} {op : Mnemonic}

theorem decodeWith_noArg (h : T.noarg id = some op) (bs : List Byte) :
    decodeWith T ((0b11#2 ++ id) :: bs) = Decoded.ofShape (.noArg op) bs := by
  simp only [decodeWith, noArgByte_top, noArgByte_id, if_true, h]

theorem decodeWith_noArg_unnamed (h : T.noarg id = none) (bs : List Byte) :
    decodeWith T ((0b11#2 ++ id) :: bs) = Decoded.failed .invalidOpCode bs := by
  simp only [decodeWith, noArgByte_top, noArgByte_id, if_true, h]

theorem decodeWith_fam_unnamed (hf : f.toNat < 24) (h : T.fam f = none) (bs : List Byte) :
    decodeWith T ((f ++ r) :: bs) = Decoded.failed .invalidOpCode bs := by
  simp only [decodeWith, famByte_top_iff, famByte_family, hf.not_ge, if_false, h]

theorem decodeWith_regForm {k : ArgKind} (hf : f.toNat < 24) (h : T.fam f = some (op, k)) (hk : k = .immReg ∨ k = .regOnly)
    (hr : r ≠ 0#3) (bs : List Byte) : decodeWith T ((f ++ r) :: bs) = Decoded.ofShape (.reg op r) bs := by
  obtain rfl | rfl := hk <;>
    simp only [decodeWith, famByte_top_iff, famByte_family, famByte_argument, hf.not_ge, hr, if_false, h]

theorem decodeWith_regOnly_sentinel (hf : f.toNat < 24) (h : T.fam f = some (op, .regOnly)) (bs : List Byte) :
    decodeWith T ((f ++ 0#3) :: bs) = Decoded.failed .invalidArgument bs := by
  simp only [decodeWith, famByte_top_iff, famByte_family, famByte_argument, hf.not_ge, if_false, if_true, h]

theorem decodeWith_imm (hf : f.toNat < 24) (h : T.fam f = some (op, .immReg)) (v : Byte) (bs : List Byte) :
    decodeWith T ((f ++ 0#3) :: v :: bs) = Decoded.ofShape (.imm op v) bs := by
  simp only [decodeWith, famByte_top_iff, famByte_family, famByte_argument, hf.not_ge, if_false, if_true, h]

theorem decodeWith_imm_missing (hf : f.toNat < 24) (h : T.fam f = some (op, .immReg)) :
    decodeWith T [f ++ 0#3] = Decoded.failed .noImmediate [] := by
  simp only [decodeWith, famByte_top_iff, famByte_family, famByte_argument, hf.not_ge, if_false, if_true, h]

theorem decodeWith_cond (hf : f.toNat < 24) (h : T.fam f = some (op, .cond)) (v : Byte) (bs : List Byte) :
    decodeWith T ((f ++ r) :: v :: bs) = Decoded.ofShape (.condImm op (Cond.ofBits r) v) bs := by
  simp only [decodeWith, famByte_top_iff, famByte_family, famByte_argument, hf.not_ge, if_false, h]

theorem decodeWith_cond_missing (hf : f.toNat < 24) (h : T.fam f = some (op, .cond)) :
    decodeWith T [f ++ r] = Decoded.failed .noImmediate [] := by
  simp only [decodeWith, famByte_top_iff, famByte_family, hf.not_ge, if_false, h]

end Branches

theorem ofShape_shape (i : Instr) (rest : List Byte) :
    Decoded.ofShape i.shape rest = { instr := some i, rest := rest, reason := .success } := by
  simp [Decoded.ofShape]

/-! ## The laws of the codec (R65, R68) -/

/-- Every well-formed shape has bytes under a valid table, and the decoder reads the shape back from them (R63, R64). -/
theorem decodeWith_encodeShape {T : OpTable} (hT : T.Valid) {sh : Shape} (hwf : sh.wellFormed = true) :
    ∃ enc, encodeShape T sh = some enc ∧ ∀ tail, decodeWith T (enc ++ tail) = Decoded.ofShape sh tail := by
  cases sh with
  | noArg op =>
    obtain ⟨id, hid⟩ := hT.noarg_total op (by simpa [Shape.wellFormed] using hwf)
    exact ⟨_, encodeShape_noArg hT hid, decodeWith_noArg hid⟩
  | reg op r =>
    obtain ⟨hkind, hr⟩ : (op.kind = some .immReg ∨ op.kind = some .regOnly) ∧ r ≠ 0#3 := by
      simpa [Shape.wellFormed] using hwf
    obtain ⟨k, hop, hk⟩ : ∃ k, op.kind = some k ∧ (k = .immReg ∨ k = .regOnly) :=
      hkind.elim (fun h => ⟨_, h, .inl rfl⟩) fun h => ⟨_, h, .inr rfl⟩
    obtain ⟨f, hf⟩ := hT.fam_total op k hop
    obtain ⟨-, hlt⟩ := hT.fam_kind f op k hf
    exact ⟨_, encodeShape_reg hT hf r, decodeWith_regForm hlt hf hk hr⟩
  | imm op v =>
    obtain ⟨f, hf⟩ := hT.fam_total op .immReg (by simpa [Shape.wellFormed] using hwf)
    obtain ⟨-, hlt⟩ := hT.fam_kind f op .immReg hf
    exact ⟨_, encodeShape_imm hT hf v, decodeWith_imm hlt hf v⟩
  | condImm op c v =>
    obtain ⟨f, hf⟩ := hT.fam_total op .cond (by simpa [Shape.wellFormed] using hwf)
    obtain ⟨-, hlt⟩ := hT.fam_kind f op .cond hf
    refine ⟨_, encodeShape_condImm hT hf c v, fun tail => ?_⟩
    rw [List.cons_append, List.cons_append, decodeWith_cond hlt hf, Cond.ofBits_bits, List.nil_append]

/-- The round trip (R68). -/
theorem decodeWith_encodeWith {T : OpTable} (hT : T.Valid) (i : Instr) : ∃ enc, encodeWith T i = some enc ∧
    ∀ tail, decodeWith T (enc ++ tail) = { instr := some i, rest := tail, reason := .success } := by
  simpa only [encodeWith, ofShape_shape] using decodeWith_encodeShape hT (wellFormed_shape i)

/-- Two instructions with the same bytes are equal: the decoder reads both back from them (R68). -/
theorem encodeWith_injective {T : OpTable} (hT : T.Valid) {i j : Instr} {enc : List Byte} (hi : encodeWith T i = some enc)
    (hj : encodeWith T j = some enc) : i = j := by
  obtain ⟨enci, henci, hdeci⟩ := decodeWith_encodeWith hT i
  obtain ⟨encj, hencj, hdecj⟩ := decodeWith_encodeWith hT j
  obtain rfl : enc = enci := Option.some.inj (hi.symm.trans henci)
  obtain rfl : enc = encj := Option.some.inj (hj.symm.trans hencj)
  simpa using (hdeci []).symm.trans (hdecj [])

/-- What a decode of an input can give under a table: one of the four failures with the bytes that it consumes (R64, R65), or
an instruction whose encoding stands at the front of the input. -/
inductive DecodeOutcome (T : OpTable) : List Byte → Decoded → Prop
  | noData : DecodeOutcome T [] (Decoded.failed .noData [])
  | invalidOpCode (b : Byte) (tail : List Byte) : DecodeOutcome T (b :: tail) (Decoded.failed .invalidOpCode tail)
  | invalidArgument (b : Byte) (tail : List Byte) : DecodeOutcome T (b :: tail) (Decoded.failed .invalidArgument tail)
  | noImmediate (b : Byte) : DecodeOutcome T [b] (Decoded.failed .noImmediate [])
  | success (i : Instr) (enc rest : List Byte) (henc : encodeWith T i = some enc) :
    DecodeOutcome T (enc ++ rest) { instr := some i, rest := rest, reason := .success }

/-- A well-formed shape read from its own bytes is a success: only a table row of the wrong kind is refused. -/
theorem decodeOutcome_ofShape {T : OpTable} {sh : Shape} {enc : List Byte} (hwf : sh.wellFormed = true)
    (henc : encodeShape T sh = some enc) (rest : List Byte) : DecodeOutcome T (enc ++ rest) (Decoded.ofShape sh rest) := by
  obtain ⟨i, hi⟩ := Option.isSome_iff_exists.mp ((isSome_create sh).trans hwf)
  obtain rfl := shape_of_create hi
  rw [ofShape_shape]
  exact .success i enc rest henc

/-- The no-argument branch of R64: an instruction, or an id that names nothing. -/
theorem decodeWith_noArgByte_outcome {T : OpTable} (hT : T.Valid) (id : BitVec 6) (tail : List Byte) :
    DecodeOutcome T ((0b11#2 ++ id) :: tail) (decodeWith T ((0b11#2 ++ id) :: tail)) := by
  cases hid : T.noarg id with
  | none =>
    rw [decodeWith_noArg_unnamed hid]
    exact .invalidOpCode _ _
  | some op =>
    have hkind := hT.noarg_kind id op hid
    rw [decodeWith_noArg hid]
    exact decodeOutcome_ofShape (sh := .noArg op) (by simp [Shape.wellFormed, hkind]) (encodeShape_noArg hT hid) tail

/-- The family branches of R64, by the kind of the family and its argument field. -/
theorem decodeWith_famByte_outcome {T : OpTable} (hT : T.Valid) {f : BitVec 5} (hlt : f.toNat < 24) (r : BitVec 3)
    (tail : List Byte) : DecodeOutcome T ((f ++ r) :: tail) (decodeWith T ((f ++ r) :: tail)) := by
  cases hf : T.fam f with
  | none =>
    rw [decodeWith_fam_unnamed hlt hf]
    exact .invalidOpCode _ _
  | some row =>
    obtain ⟨op, k⟩ := row
    obtain ⟨hkind, -⟩ := hT.fam_kind f op k hf
    have hreg (hk : k = .immReg ∨ k = .regOnly) (hr : r ≠ 0#3) :
        DecodeOutcome T ((f ++ r) :: tail) (decodeWith T ((f ++ r) :: tail)) := by
      rw [decodeWith_regForm hlt hf hk hr]
      exact decodeOutcome_ofShape (sh := .reg op r) (by simpa [Shape.wellFormed, hkind, hr] using hk)
        (encodeShape_reg hT hf r) tail
    cases k with
    | cond =>
      cases tail with
      | nil =>
        rw [decodeWith_cond_missing hlt hf]
        exact .noImmediate _
      | cons v rest =>
        have henc := encodeShape_condImm hT hf (Cond.ofBits r) v
        rw [Cond.bits_ofBits] at henc
        rw [decodeWith_cond hlt hf]
        exact decodeOutcome_ofShape (by simp [Shape.wellFormed, hkind]) henc rest
    | regOnly =>
      by_cases hr : r = 0#3
      · subst hr
        rw [decodeWith_regOnly_sentinel hlt hf]
        exact .invalidArgument _ _
      · exact hreg (.inr rfl) hr
    | immReg =>
      by_cases hr : r = 0#3
      · subst hr
        cases tail with
        | nil =>
          rw [decodeWith_imm_missing hlt hf]
          exact .noImmediate _
        | cons v rest =>
          rw [decodeWith_imm hlt hf]
          exact decodeOutcome_ofShape (sh := .imm op v) (by simp [Shape.wellFormed, hkind]) (encodeShape_imm hT hf v) rest
      · exact hreg (.inl rfl) hr

/-- Every answer of the decoder under a valid table is one of the outcomes. -/
theorem decodeWith_outcome {T : OpTable} (hT : T.Valid) (bs : List Byte) : DecodeOutcome T bs (decodeWith T bs) := by
  cases bs with
  | nil => exact .noData
  | cons b tail =>
    obtain ⟨id, rfl⟩ | ⟨f, r, hlt, rfl⟩ := firstByte_cases b
    · exact decodeWith_noArgByte_outcome hT id tail
    · exact decodeWith_famByte_outcome hT hlt r tail

/-- Settles O1: the round trip gives the first law and injectivity, the outcomes of a decode give exhaustiveness; `decodeWith`
is a function. -/
theorem codecLawsUnderEveryTable : Obligations.CodecLawsUnderEveryTable := by
  intro T hT
  refine ⟨decodeWith_encodeWith hT, fun bs bs' h => congrArg _ h, fun b tail => ?exhaustive,
    fun i j bs => encodeWith_injective hT⟩
  case exhaustive =>
    generalize hbs : b :: tail = bs
    have hout := decodeWith_outcome hT bs
    generalize decodeWith T bs = d at hout
    cases hout with
    | noData => cases hbs
    | success i enc rest henc => exact .inl ⟨rfl, rfl⟩
    | invalidOpCode | invalidArgument | noImmediate => simp [Decoded.failed]

/-- Settles O3: the bytes consumed, read from the outcomes of a decode; those of a success are its encoding. -/
theorem decodeConsumption : Obligations.DecodeConsumption := by
  intro T hT
  refine ⟨fun bs => ?consumed, decodeWith_regOnly_sentinel (by decide) hT.src_pop _⟩
  case consumed =>
    have hout := decodeWith_outcome hT bs
    generalize decodeWith T bs = d at hout
    cases hout with
    | noData | invalidOpCode | invalidArgument | noImmediate => simp [Decoded.failed]
    | success i enc rest henc =>
      refine ⟨List.suffix_append enc rest, by simp, by simp, by simp, by simp, fun j hj => ?_⟩
      obtain rfl : i = j := Option.some.inj hj
      change rest.length + i.shape.byteLength = (enc ++ rest).length
      rw [List.length_append, length_of_encodeShape henc, Nat.add_comm]

/-! ## The memory operand (R71) -/

/-- Settles O12: SP and BP are the two registers whose operand lies in the stack segment. -/
theorem memoryOperandSegment : Obligations.MemoryOperandSegment := by
  refine fun s => ⟨fun v => rfl, fun r => ?_, fun o => rfl⟩
  cases r <;> rfl

end Sys2Proof
end

section
/-! The return of 40_control_transfer.md (R82): the byte of `RET`, which every valid table fixes, and its effect. -/

namespace Sys2Proof.Machine

theorem encodeWith_ret {T : OpTable} (hT : T.Valid) : encodeWith T .ret = some [0xC1#8] :=
  encodeShape_noArg hT hT.src_ret

theorem decodeWith_ret {T : OpTable} (hT : T.Valid) (tail : List Byte) :
    decodeWith T (0xC1#8 :: tail) = { instr := some .ret, rest := tail, reason := .success } :=
  (decodeWith_noArg hT.src_ret tail).trans (ofShape_shape .ret tail)

/-- `RET` is one load of the program counter (R82). -/
theorem exec_ret (s : State) : exec .ret s = .next (s.setPc s.csr (s.getReg .lr)) := rfl

/-- Settles O20: the byte by the table's fixed row for `RET`, the effect by `exec_ret`; a load of the program counter
leaves every other field and memory as they are. -/
theorem returnThroughTheLink : Obligations.ReturnThroughTheLink := by
  refine ⟨fun T hT => ⟨encodeWith_ret hT, decodeWith_ret hT []⟩, fun s => ⟨_, exec_ret s, ?fields, ?bytes⟩⟩
  case fields => rfl
  case bytes => exact State.readByte_setPc s s.csr (s.getReg .lr)

end Sys2Proof.Machine
end

section
/-! The flag rule `ZN` (R100) and the shift `SHL` (R111) of 43_alu.md: the fields of `ZN` said once, then the two statements. -/

namespace Sys2Proof.Machine

/-- Bit 7 of a byte, read as a number. -/
theorem byte_msb_iff (v : Byte) : v.msb = true ↔ 128 ≤ v.toNat := by
  simp [BitVec.msb_eq_decide]

/-! ## `ZN`, one lemma for each flag (R100) -/

section ZeroNegative

variable (v : Byte) (f : Flags)

theorem znFlags_z_iff : (znFlags v f).z = true ↔ v.toNat = 0 := by
  simp [znFlags, ← BitVec.toNat_inj]

theorem znFlags_n_iff : (znFlags v f).n = true ↔ 128 ≤ v.toNat := byte_msb_iff v

@[simp] theorem znFlags_c : (znFlags v f).c = f.c := rfl
@[simp] theorem znFlags_v : (znFlags v f).v = f.v := rfl

end ZeroNegative

/-- Settles O14, flag by flag. -/
theorem zeroAndNegativeOfAResult : Obligations.ZeroAndNegativeOfAResult :=
  fun v f => ⟨znFlags_z_iff v f, znFlags_n_iff v f, znFlags_c v f, znFlags_v v f⟩

/-! ## `SHL` (R111) -/

theorem encodeWith_shl {T : OpTable} (hT : T.Valid) : encodeWith T .shl = some [0xC4#8] :=
  encodeShape_noArg hT hT.src_shl

theorem decodeWith_shl {T : OpTable} (hT : T.Valid) (tail : List Byte) :
    decodeWith T (0xC4#8 :: tail) = { instr := some .shl, rest := tail, reason := .success } :=
  (decodeWith_noArg hT.src_shl tail).trans (ofShape_shape .shl tail)

theorem byte_toNat_shiftLeft_one (v : Byte) : (v <<< 1).toNat = 2 * v.toNat % 256 := by
  rw [BitVec.toNat_shiftLeft, Nat.shiftLeft_eq, Nat.mul_comm]

/-- `SHL` writes the accumulator and the flags: the old bit 7 goes to carry before `ZN` of the result (R111). -/
theorem exec_shl (s : State) : exec .shl s =
    .next ((s.setA (s.a <<< 1)).setFlags (znFlags (s.a <<< 1) { s.flags with c := s.a.msb })) := rfl

/-- Settles O29: the byte by the table's fixed row for `SHL`, the effect by `exec_shl`, with zero and negative by `ZN`; a write
of the accumulator and the flags leaves every other field and memory as they are. -/
theorem shiftLeft : Obligations.ShiftLeft := by
  refine ⟨fun T hT => ⟨encodeWith_shl hT, decodeWith_shl hT []⟩, fun s => ⟨_, exec_shl s, ?result, ?carry, ?zero, ?negative,
    ?overflow, ?fields, ?bytes⟩⟩
  case result => exact byte_toNat_shiftLeft_one s.a
  case carry => simpa using byte_msb_iff s.a
  case zero => exact znFlags_z_iff _ _
  case negative => exact znFlags_n_iff _ _
  case overflow => exact znFlags_v _ _
  case fields => rfl
  case bytes => exact fun y => (State.readByte_setFlags _ _ y).trans (State.readByte_setA s _ y)

end Sys2Proof.Machine
end

section
/-! The error model of 60_exceptions.md (R132): every instruction and every cycle of a running core completes, and no executed
instruction ends in a decode-failure halt. -/

namespace Sys2Proof.Machine

/-! ## Completion -/

/-- No instruction faults or is refused: each meaning is a next state, whichever way the test of `Jcc` goes (R132). -/
theorem exec_completes (i : Instr) (s : State) : ∃ t, exec i s = .next t := by
  cases i <;> exact ⟨_, rfl⟩

/-- The cycle of a running core whose decode fails, the other branch of `cycle_next` (R130). -/
theorem cycle_of_decodeFailure {T : OpTable} {s : State} (irq : Bool) (hrun : s.halted = false)
    (hnone : (fetchDecode T s).instr = none) : cycle T irq s = .next (decodeFailureState T s) := by
  simp [cycle, hrun, hnone]

theorem cycle_completes (T : OpTable) (irq : Bool) {s : State} (hrun : s.halted = false) : ∃ t, cycle T irq s = .next t := by
  cases hinstr : (fetchDecode T s).instr with
  | none => exact ⟨_, cycle_of_decodeFailure irq hrun hinstr⟩
  | some i =>
    obtain ⟨u, hu⟩ := exec_completes i (executeState T s)
    exact ⟨_, cycle_of_exec irq hrun hinstr hu⟩

/-! ## What halts the core -/

theorem executeState_halted (T : OpTable) (s : State) : (executeState T s).halted = s.halted := rfl

@[simp] theorem enableLatch_halted (s : State) : (enableLatch s).halted = s.halted := by
  rw [enableLatch_eq]

@[simp] theorem interruptCheck_halted (irq : Bool) (s : State) : (interruptCheck irq s).halted = s.halted := by
  obtain h | ⟨-, -, h⟩ := interruptCheck_cases irq s <;> simp [h]

/-- `HLT` alone halts the core (R30, R125). -/
theorem exec_halted_of_ne_hlt {i : Instr} {s t : State} (h : exec i s = .next t) (hhlt : i ≠ .hlt) : t.halted = s.halted := by
  cases i with
  | hlt => exact absurd rfl hhlt
  | jcc c v => obtain rfl | rfl := exec_jcc_cases h <;> rfl
  | _ =>
    cases h
    rfl

theorem State.CleanHalt.not_failedHalt {s : State} (h : s.CleanHalt) : ¬ s.FailedHalt := by
  simp [State.FailedHalt, h.2]

/-- A cycle that executed its instruction ends running, or halted cleanly by `HLT`; neither is a decode-failure halt. -/
theorem not_failedHalt_of_exec {i : Instr} {s u : State} (irq : Bool) (hrun : s.halted = false) (hu : exec i s = .next u) :
    ¬ (endCycle i irq u).FailedHalt := by
  by_cases hhlt : i = .hlt
  · subst hhlt
    cases hu
    exact State.CleanHalt.not_failedHalt ⟨rfl, rfl⟩
  · have hend : (endCycle i irq u).halted = false := by
      simp [endCycle_of_ne i irq u hhlt, exec_halted_of_ne_hlt hu hhlt, hrun]
    simp [State.FailedHalt, hend]

/-- A decode-failure halt at the end of a cycle comes from a failed decode in that cycle (R131, R132). -/
theorem decode_fails_of_failedHalt {T : OpTable} {irq : Bool} {s t : State} (h : cycle T irq s = .next t) (ht : t.FailedHalt) :
    (fetchDecode T s).instr = none := by
  obtain ⟨hrun, ⟨hnone, -⟩ | ⟨i, u, -, hu, rfl⟩⟩ := cycle_next h
  · exact hnone
  · exact absurd ht (not_failedHalt_of_exec irq ((executeState_halted T s).trans hrun) hu)

/-- Settles O41: completion of the instruction gives that of the cycle, and only a failed decode ends in a failed halt. -/
theorem everyDecodedInstructionCompletes : Obligations.EveryDecodedInstructionCompletes := by
  refine ⟨exec_completes, fun T irq s hrun => ?cycle⟩
  case cycle =>
    obtain ⟨t, ht⟩ := cycle_completes T irq hrun
    exact ⟨t, ht, decode_fails_of_failedHalt ht⟩

end Sys2Proof.Machine
end

section
/-! The machine invariant of 10_state.md section 6: what one executed instruction does to memory (R35, R88) and to the halt
fields (R30, R131), what a failed decode leaves (R130), and that reset and every step meet the invariant. -/

namespace Sys2Proof.Machine

/-! ## Memory after an instruction -/

/-- The memory that an instruction leaves: the three stores (R84, R85, R98), and the memory itself under every other. -/
def memAfter (i : Instr) (s : State) : Memory :=
  match i with
  | .stm o => (s.writeByte (memaddr o s) s.a).mem
  | .push o => (s.writeByte s.pushAddr (argval o s)).mem
  | .pushCsr => (s.writeByte s.pushAddr s.csr).mem
  | _ => s.mem

/-- The one value that execution gives memory. -/
theorem exec_mem {i : Instr} {s t : State} (h : exec i s = .next t) : t.mem = memAfter i s := by
  cases i with
  | jcc c v => obtain rfl | rfl := exec_jcc_cases h <;> rfl
  | _ =>
    cases h
    rfl

theorem memAfter_of_not_store {i : Instr} (s : State) (hstore : ¬ ∃ o, i = .stm o ∨ i = .push o) (hpush : i ≠ .pushCsr) :
    memAfter i s = s.mem := by
  cases i with
  | stm o => exact absurd ⟨o, .inl rfl⟩ hstore
  | push o => exact absurd ⟨o, .inr rfl⟩ hstore
  | pushCsr => exact absurd rfl hpush
  | _ => rfl

theorem wf_memAfter (i : Instr) {s : State} (h : Memory.wf s.mem = true) : Memory.wf (memAfter i s) = true := by
  cases i with
  | stm _ | push _ | pushCsr => exact State.wf_writeByte s _ _ h
  | _ => exact h

/-- States with one memory have the same bytes. -/
theorem sameBytes_of_mem {s t : State} (h : t.mem = s.mem) : SameBytes s t := fun x =>
  congrArg (fun m => Memory.read m x.toNat) h

/-- A state whose memory is that of a store differs from the old one in the stored byte only (R35). -/
theorem sameBytesExcept_of_mem {s t : State} {x : Addr} {v : Byte} (h : t.mem = (s.writeByte x v).mem) :
    SameBytesExcept x s t := fun y hy =>
  (sameBytes_of_mem h y).trans (State.readByte_writeByte_other s x y v hy)

/-- Settles O58: the memory after an instruction is given by `exec_mem`, store by store. -/
theorem memoryChangesOnlyByStores : Obligations.MemoryChangesOnlyByStores := by
  refine fun i s t h => ⟨?stm, ?push, fun hstore hpush => ?other⟩
  case stm =>
    rintro o rfl
    exact sameBytesExcept_of_mem (exec_mem h)
  case push =>
    rintro (⟨o, rfl⟩ | rfl) <;> exact sameBytesExcept_of_mem (exec_mem h)
  case other => exact sameBytes_of_mem ((exec_mem h).trans (memAfter_of_not_store s hstore hpush))

/-! ## The halt fields -/

theorem exec_hlt (s : State) : exec .hlt s = .next (s.haltWith (some .hlt)) := rfl

/-- `HLT` alone records a halt reason (R131). -/
theorem exec_haltReason_of_ne_hlt {i : Instr} {s t : State} (h : exec i s = .next t) (hhlt : i ≠ .hlt) :
    t.haltReason = s.haltReason := by
  cases i with
  | hlt => exact absurd rfl hhlt
  | jcc c v => obtain rfl | rfl := exec_jcc_cases h <;> rfl
  | _ =>
    cases h
    rfl

/-- The next fetch reads one byte or two. -/
theorem State.fetchBytes_cons (s : State) : ∃ tail, s.fetchBytes = s.readByte s.pc :: tail := by
  unfold State.fetchBytes
  split <;> exact ⟨_, rfl⟩

/-- A failed decode of fetched bytes has one of three reasons and consumes one byte (R65, R130). -/
theorem fetchDecode_failure {T : OpTable} (hT : T.Valid) {s : State} (hnone : (fetchDecode T s).instr = none) :
    ((fetchDecode T s).reason = .invalidOpCode ∨ (fetchDecode T s).reason = .invalidArgument ∨
      (fetchDecode T s).reason = .noImmediate) ∧ consumed T s = 1 := by
  obtain ⟨tail, htail⟩ := s.fetchBytes_cons
  rw [consumed]
  unfold fetchDecode at *
  have hout := decodeWith_outcome hT s.fetchBytes
  generalize decodeWith T s.fetchBytes = d at hout hnone
  generalize s.fetchBytes = bs at hout htail
  cases hout with
  | noData => cases htail
  | success i enc rest henc => cases hnone
  | invalidOpCode | invalidArgument | noImmediate => simp [Decoded.failed]

theorem decodeFailureState_halted (T : OpTable) (s : State) : (decodeFailureState T s).halted = true := rfl

theorem decodeFailureState_haltReason (T : OpTable) (s : State) :
    (decodeFailureState T s).haltReason = haltReasonOf (fetchDecode T s).reason := rfl

/-! ## The invariant -/

theorem State.inv_decodeFailureState {T : OpTable} (hT : T.Valid) {s : State} (hs : s.Inv)
    (hnone : (fetchDecode T s).instr = none) : (decodeFailureState T s).Inv := by
  obtain ⟨hwf, hpend, -⟩ := hs
  refine ⟨hwf, hpend, ?_⟩
  obtain ⟨hreason | hreason | hreason, -⟩ := fetchDecode_failure hT hnone <;>
    rw [decodeFailureState_halted, decodeFailureState_haltReason, hreason] <;> rfl

theorem State.inv_executeState (T : OpTable) {s : State} (hs : s.Inv) : (executeState T s).Inv := by
  obtain ⟨hwf, -, hhalt⟩ := hs
  exact ⟨hwf, rfl, hhalt⟩

theorem State.inv_interruptCheck_enableLatch (irq : Bool) {s : State} (hwf : Memory.wf s.mem = true)
    (hhalt : s.halted = s.haltReason.isSome) : (enableLatch (interruptCheck irq s)).Inv := by
  rw [enableLatch_eq]
  obtain hcheck | ⟨-, -, hcheck⟩ := interruptCheck_cases irq s <;> rw [hcheck]
  · exact ⟨hwf, rfl, hhalt⟩
  · exact ⟨State.wf_interruptEntry s hwf, rfl, by simpa using hhalt⟩

/-- Executing an instruction and ending the cycle keeps the invariant: `HLT` halts with its reason and leaves the latch clear,
after every other instruction the cycle's last action clears the latch. -/
theorem State.inv_endCycle {i : Instr} {s u : State} (irq : Bool) (hs : s.Inv) (hu : exec i s = .next u) :
    (endCycle i irq u).Inv := by
  obtain ⟨hwf, hpend, hhalt⟩ := hs
  by_cases hhlt : i = .hlt
  · subst hhlt
    cases hu
    exact ⟨hwf, hpend, rfl⟩
  · rw [endCycle_of_ne i irq u hhlt]
    refine State.inv_interruptCheck_enableLatch irq ?_ ?_
    · exact exec_mem hu ▸ wf_memAfter i hwf
    · rw [exec_halted_of_ne_hlt hu hhlt, exec_haltReason_of_ne_hlt hu hhlt, hhalt]

/-- Every cycle keeps the invariant, under every valid table and either answer of the request. -/
theorem State.inv_cycle {T : OpTable} (hT : T.Valid) {irq : Bool} {s t : State} (hs : s.Inv)
    (h : cycle T irq s = .next t) : t.Inv := by
  obtain ⟨-, ⟨hnone, rfl⟩ | ⟨i, u, -, hu, rfl⟩⟩ := cycle_next h
  · exact State.inv_decodeFailureState hT hs hnone
  · exact State.inv_endCycle irq (State.inv_executeState T hs) hu

/-- Settles O51: a step is a cycle under the default table, which is valid. -/
theorem everyStepKeepsTheMachineInvariant : Obligations.EveryStepKeepsTheMachineInvariant :=
  fun _ _ hs h => State.inv_cycle OpTable.default_valid hs h

/-! ## Reset (R146) -/

theorem State.inv_boot (start : Addr) {mem0 : Memory} (h : Memory.wf mem0 = true) : (State.boot start mem0).Inv :=
  ⟨h, rfl, rfl⟩

/-- Settles O52. -/
theorem resetMeetsTheMachineInvariant : Obligations.ResetMeetsTheMachineInvariant :=
  ⟨State.inv_boot _ Memory.wf_reset, fun start _ h => State.inv_boot start h⟩

/-- The program counter after reset is the start address, put together from its two halves (R33, D12). -/
theorem State.pc_boot (start : Addr) (mem0 : Memory) : (State.boot start mem0).pc = start :=
  segAddr_split start

theorem State.getReg_boot (start : Addr) (mem0 : Memory) (r : Reg) : (State.boot start mem0).getReg r = 0#8 := by
  cases r <;> rfl

/-- Settles O53: the program counter by `State.pc_boot`, the bank by `State.getReg_boot`; every other field is listed in
`State.boot`. -/
theorem stateAfterReset : Obligations.StateAfterReset :=
  ⟨⟨_, [], Memory.wf_reset, rfl⟩, fun start mem0 => ⟨State.pc_boot start mem0, rfl, rfl, rfl, rfl,
    State.getReg_boot start mem0, rfl, rfl, rfl, rfl, rfl⟩⟩

end Sys2Proof.Machine
end

section
/-! The writers of the flags (R26), the segment registers (R21) and the bank registers (R25) in 10_state.md: what one executed
instruction can do to each, then the three statements. -/

namespace Sys2Proof.Machine

/-! ## The flags -/

/-- The instructions that write all four flags: the arithmetic and logic instructions and `CFLAGS` (R26). -/
def WritesAllFlags (i : Instr) : Prop :=
  (∃ o, i = .add o ∨ i = .adc o ∨ i = .sub o ∨ i = .and o ∨ i = .or o ∨ i = .xor o) ∨
    (∃ r, i = .inc r ∨ i = .dec r) ∨ i = .incA ∨ i = .decA ∨ i = .cflags

/-- Everything an instruction can do to the flags: write all four; as a shift, keep overflow; as a rotate, keep overflow and
carry; as any other instruction, keep all four. -/
theorem exec_flags_cases {i : Instr} {s t : State} (h : exec i s = .next t) :
    WritesAllFlags i ∨
    ((i = .shl ∨ i = .shr ∨ i = .sra) ∧ t.flags.v = s.flags.v) ∨
    ((i = .rol ∨ i = .ror) ∧ t.flags.v = s.flags.v ∧ t.flags.c = s.flags.c) ∨
    t.flags = s.flags := by
  cases i with
  | add o | adc o | sub o | and o | or o | xor o => exact .inl (.inl ⟨o, by simp⟩)
  | inc r | dec r => exact .inl (.inr (.inl ⟨r, by simp⟩))
  | incA | decA | cflags => exact .inl (.inr (.inr (by simp)))
  | shl | shr | sra =>
    cases h
    exact .inr (.inl ⟨by simp, rfl⟩)
  | rol | ror =>
    cases h
    exact .inr (.inr (.inl ⟨by simp, rfl, rfl⟩))
  | jcc c v => obtain rfl | rfl := exec_jcc_cases h <;> exact .inr (.inr (.inr rfl))
  | _ =>
    cases h
    exact .inr (.inr (.inr rfl))

/-- Settles O54: each flag by the cases of `exec_flags_cases` that its writers leave. -/
theorem flagsChangeOnlyByTheirWriters : Obligations.FlagsChangeOnlyByTheirWriters := by
  refine ⟨fun i s t h => ?instructions, State.interruptEntry_flags⟩
  case instructions =>
    obtain hall | ⟨hshift, hv⟩ | ⟨hrotate, hv, hc⟩ | hkept := exec_flags_cases h
    · exact ⟨fun hn => absurd hall hn, fun hn => absurd (.inl hall) hn, fun hn => absurd (.inl hall) hn⟩
    · exact ⟨fun _ => hv, fun hn => absurd (.inr hshift) hn, fun hn => absurd (.inr (.inl hshift)) hn⟩
    · exact ⟨fun _ => hv, fun _ => hc, fun hn => absurd (.inr (.inr hrotate)) hn⟩
    · rw [hkept]
      exact ⟨fun _ => rfl, fun _ => rfl, fun _ => ⟨rfl, rfl⟩⟩

/-! ## The segment registers -/

/-- The far transfers alone write `cs` (R21). -/
theorem exec_cs_of_not_writer {i : Instr} {s t : State} (h : exec i s = .next t) (hfar : ¬ ∃ o, i = .jf o ∨ i = .callf o)
    (hret : i ≠ .ret) (hiret : i ≠ .iret) : t.cs = s.cs := by
  cases i with
  | jf o => exact absurd ⟨o, .inl rfl⟩ hfar
  | callf o => exact absurd ⟨o, .inr rfl⟩ hfar
  | ret => exact absurd rfl hret
  | iret => exact absurd rfl hiret
  | jcc c v => obtain rfl | rfl := exec_jcc_cases h <;> rfl
  | _ =>
    cases h
    rfl

/-- `LDDS` alone writes `ds` (R21). -/
theorem exec_ds_of_not_writer {i : Instr} {s t : State} (h : exec i s = .next t) (hldds : ¬ ∃ o, i = .ldds o) :
    t.ds = s.ds := by
  cases i with
  | ldds o => exact absurd ⟨o, rfl⟩ hldds
  | jcc c v => obtain rfl | rfl := exec_jcc_cases h <;> rfl
  | _ =>
    cases h
    rfl

/-- `LDSS` and the pushes and pops, those of `IRET` among them, alone write `ss` (R21, R44). -/
theorem exec_ss_of_not_writer {i : Instr} {s t : State} (h : exec i s = .next t)
    (hload : ¬ ∃ o, i = .ldss o ∨ i = .push o) (hpop : ¬ ∃ r, i = .pop r) (hpushCsr : i ≠ .pushCsr) (hpopCsr : i ≠ .popCsr)
    (hiret : i ≠ .iret) : t.ss = s.ss := by
  cases i with
  | ldss o => exact absurd ⟨o, .inl rfl⟩ hload
  | push o => exact absurd ⟨o, .inr rfl⟩ hload
  | pop r => exact absurd ⟨r, rfl⟩ hpop
  | pushCsr => exact absurd rfl hpushCsr
  | popCsr => exact absurd rfl hpopCsr
  | iret => exact absurd rfl hiret
  | jcc c v => obtain rfl | rfl := exec_jcc_cases h <;> rfl
  | _ =>
    cases h
    rfl

/-- Settles O56, register by register. -/
theorem segmentRegistersChangeOnlyByTheirWriters : Obligations.SegmentRegistersChangeOnlyByTheirWriters :=
  fun _ _ _ h => ⟨exec_cs_of_not_writer h, exec_ds_of_not_writer h, exec_ss_of_not_writer h⟩

/-! ## The bank registers -/

theorem State.getReg_setReg_other (s : State) {r q : Reg} (v : Byte) (h : q ≠ r) : (s.setReg r v).getReg q = s.getReg q := by
  rw [State.getReg_setReg, if_neg h]

theorem State.getReg_push_other (s : State) (v : Byte) {q : Reg} (h : q ≠ .sp) : (s.push v).getReg q = s.getReg q :=
  State.getReg_setReg_other _ _ h

theorem State.getReg_popped_other (s : State) {q : Reg} (h : q ≠ .sp) : s.popped.getReg q = s.getReg q :=
  State.getReg_setReg_other _ _ h

/-- The return from an interrupt leaves every bank register but SP (R124). -/
theorem State.getReg_interruptReturn_other (s : State) {q : Reg} (h : q ≠ .sp) :
    s.interruptReturn.getReg q = s.getReg q :=
  (State.getReg_popped_other s.popped h).trans (State.getReg_popped_other s h)

/-- Settles O57: an instruction writes the register that it names, LR as a call and SP as a stack instruction; a write of one
register leaves every other. -/
theorem bankRegistersChangeOnlyByTheirWriters : Obligations.BankRegistersChangeOnlyByTheirWriters := by
  intro i s t q h hnamed hcall hstack
  have hlr (hi : ∃ o, i = .calln o ∨ i = .callf o) : q ≠ .lr := fun hq => hcall ⟨hq, hi⟩
  cases i with
  | sta r | stds r | stss r | swp r | inc r | dec r =>
    have hq : q ≠ r := by
      rintro rfl
      simp at hnamed
    cases h
    exact State.getReg_setReg_other s _ hq
  | calln o | callf o =>
    cases h
    exact State.getReg_setReg_other _ _ (hlr ⟨o, by simp⟩)
  | push o | pushCsr =>
    have hq : q ≠ .sp := fun hq => hstack ⟨hq, by simp⟩
    cases h
    exact State.getReg_push_other s _ hq
  | pop r =>
    have hq : q ≠ r := by
      rintro rfl
      simp at hnamed
    have hsp : q ≠ .sp := fun hsp => hstack ⟨hsp, by simp⟩
    cases h
    exact (State.getReg_setReg_other _ _ hq).trans (State.getReg_popped_other s hsp)
  | popCsr =>
    have hsp : q ≠ .sp := fun hsp => hstack ⟨hsp, by simp⟩
    cases h
    exact State.getReg_popped_other s hsp
  | iret =>
    have hsp : q ≠ .sp := fun hsp => hstack ⟨hsp, by simp⟩
    cases h
    exact State.getReg_interruptReturn_other s hsp
  | jcc c v => obtain rfl | rfl := exec_jcc_cases h <;> rfl
  | _ =>
    cases h
    rfl

end Sys2Proof.Machine
end

section
/-! The effects of single instructions in 40_control_transfer.md and 42_load_store.md, and of the system instructions in
44_system.md. Each meaning is a chain of named updates; the laws of those updates give the result and the frame. -/

namespace Sys2Proof.Machine

/-! ## Control transfer (R77 to R81) -/

theorem exec_jf (o : Arg) (s : State) : exec (.jf o) s = .next (s.setPc s.a (argval o s)) := rfl
theorem exec_jn (o : Arg) (s : State) : exec (.jn o) s = .next (s.setIp (argval o s)) := rfl

/-- Settles O17: each jump is one load of the program counter or of `ip`. -/
theorem jumpsSetTheProgramCounter : Obligations.JumpsSetTheProgramCounter := fun o s =>
  ⟨⟨_, exec_jf o s, rfl, State.readByte_setPc s _ _⟩, ⟨_, exec_jn o s, rfl, State.readByte_setIp s _⟩⟩

/-- `Jcc` is a load of `ip` with the target or with `ip` itself (R79). -/
theorem exec_jcc (c : Cond) (v : Byte) (s : State) :
    exec (.jcc c v) s = .next (s.setIp (if condHolds c s.flags then v else s.ip)) := by
  have h : exec (.jcc c v) s = .next (if condHolds c s.flags then s.setIp v else s) := rfl
  rw [h]
  split <;> rfl

/-- A condition fails when the selected flag equals the negate bit (R56). -/
theorem condHolds_eq_false_iff (c : Cond) (f : Flags) : condHolds c f = false ↔ flagOf c.flag f = c.negate := by
  simp [condHolds]

/-- The flag that a selector picks, by its place in the list of the four (R56, D3). -/
theorem flagOf_ofBits (sel : BitVec 2) (f : Flags) :
    flagOf (FlagName.ofBits sel) f = ([f.z, f.c, f.v, f.n][sel.toNat]?.getD false) := by
  obtain rfl | rfl | rfl | rfl : sel = 0#2 ∨ sel = 1#2 ∨ sel = 2#2 ∨ sel = 3#2 := by
    revert sel
    decide
  all_goals rfl

/-- Bits 2 and 1 of a condition code, read as a number (R56). -/
theorem selector_toNat (code : BitVec 3) : (code.extractLsb' 1 2).toNat = code.toNat / 2 := by
  revert code
  decide

theorem condHolds_ofBits (code : BitVec 3) (f : Flags) :
    condHolds (Cond.ofBits code) f = Bool.xor ([f.z, f.c, f.v, f.n][code.toNat / 2]?.getD false) (code.getLsbD 0) := by
  rw [← selector_toNat, ← flagOf_ofBits]
  rfl

/-- Settles O18: the target of `exec_jcc`, with the condition read as flag and negate bit and as a 3-bit code. -/
theorem conditionalJumpTestsItsFlag : Obligations.ConditionalJumpTestsItsFlag := by
  refine ⟨fun c v s => ⟨_, exec_jcc c v s, ?named, State.readByte_setIp s _⟩,
    fun code v s => ⟨Cond.bits_ofBits code, _, exec_jcc _ v s, ?coded, State.readByte_setIp s _⟩⟩
  case named =>
    change s.setIp _ = s.setIp (if flagOf c.flag s.flags = c.negate then s.ip else v)
    simp only [← condHolds_eq_false_iff]
    cases condHolds c s.flags <;> rfl
  case coded =>
    rw [condHolds_ofBits]
    rfl

theorem exec_calln (o : Arg) (s : State) :
    exec (.calln o) s = .next (((s.setCsr s.cs).setReg .lr s.ip).setIp (argval o s)) := rfl
theorem exec_callf (o : Arg) (s : State) :
    exec (.callf o) s = .next (((s.setCsr s.cs).setReg .lr s.ip).setPc s.a (argval o s)) := rfl

/-- Settles O19: of the bank, a call writes LR only. -/
theorem callsSaveTheReturnAddress : Obligations.CallsSaveTheReturnAddress := fun o s =>
  have hbank (q : Reg) (hq : q ≠ .lr) : ((s.setCsr s.cs).setReg .lr s.ip).getReg q = s.getReg q :=
    State.getReg_setReg_other _ _ hq
  ⟨⟨_, exec_calln o s, rfl, rfl, rfl, hbank, rfl, sameBytes_of_mem rfl⟩,
    ⟨_, exec_callf o s, rfl, rfl, rfl, rfl, hbank, rfl, sameBytes_of_mem rfl⟩⟩

/-! ## Loads and stores (R89 to R98) -/

theorem exec_ldaCsr (s : State) : exec .ldaCsr s = .next (s.setA s.csr) := rfl
theorem exec_staCsr (s : State) : exec .staCsr s = .next (s.setCsr s.a) := rfl
theorem exec_ldds (o : Arg) (s : State) : exec (.ldds o) s = .next (s.setDs (argval o s)) := rfl
theorem exec_ldss (o : Arg) (s : State) : exec (.ldss o) s = .next (s.setSs (argval o s)) := rfl
theorem exec_lda (o : Arg) (s : State) : exec (.lda o) s = .next (s.setA (argval o s)) := rfl

/-- Settles O24: each load is one write of its register. -/
theorem loadsOfNamedRegisters : Obligations.LoadsOfNamedRegisters := fun o s =>
  ⟨⟨_, exec_ldaCsr s, rfl, State.readByte_setA s _⟩, ⟨_, exec_staCsr s, rfl, State.readByte_setCsr s _⟩,
    ⟨_, exec_ldds o s, rfl, State.readByte_setDs s _⟩, ⟨_, exec_ldss o s, rfl, State.readByte_setSs s _⟩,
    ⟨_, exec_lda o s, rfl, State.readByte_setA s _⟩⟩

theorem exec_stds (r : Reg) (s : State) : exec (.stds r) s = .next (s.setReg r s.ds) := rfl
theorem exec_stss (r : Reg) (s : State) : exec (.stss r) s = .next (s.setReg r s.ss) := rfl
theorem exec_sta (r : Reg) (s : State) : exec (.sta r) s = .next (s.setReg r s.a) := rfl

theorem State.getReg_setReg_same (s : State) (r : Reg) (v : Byte) : (s.setReg r v).getReg r = v :=
  Bank.get_set_same s.bank r v

/-- Settles O25: each of the three is the write of one bank register, which rolls no segment. -/
theorem storesIntoBankRegisters : Obligations.StoresIntoBankRegisters := by
  intro i r v s h
  have hwrite : exec i s = .next (s.setReg r v) := by
    obtain ⟨rfl, rfl⟩ | ⟨rfl, rfl⟩ | ⟨rfl, rfl⟩ := h
    · exact exec_stds r s
    · exact exec_stss r s
    · exact exec_sta r s
  exact ⟨_, hwrite, State.getReg_setReg_same s r v, fun q hq => State.getReg_setReg_other s v hq, rfl,
    State.readByte_setReg s r v⟩

theorem exec_ldm (o : Arg) (s : State) : exec (.ldm o) s = .next (s.setA (s.readByte (memaddr o s))) := rfl
theorem exec_stm (o : Arg) (s : State) : exec (.stm o) s = .next (s.writeByte (memaddr o s) s.a) := rfl

/-- Settles O26: the store by the rule for a read after a byte write. -/
theorem memoryLoadAndStore : Obligations.MemoryLoadAndStore := fun o s =>
  ⟨⟨_, exec_ldm o s, rfl, State.readByte_setA s _⟩,
    ⟨_, exec_stm o s, State.readByte_writeByte_same s _ s.a, fun x hx => State.readByte_writeByte_other s _ x s.a hx, rfl⟩⟩

/-! ## System instructions (R121 to R125) -/

theorem exec_nop (s : State) : exec .nop s = .next s := rfl
theorem exec_eni (s : State) : exec .eni s = .next (s.setIePend true) := rfl
theorem exec_dsi (s : State) : exec .dsi s = .next (s.setIe false) := rfl

/-- Settles O35: one update each, none for `NOP`. -/
theorem systemInstructions : Obligations.SystemInstructions := fun s =>
  ⟨⟨s, exec_nop s, rfl, fun _ => rfl⟩, ⟨_, exec_eni s, rfl, State.readByte_setIePend s true⟩,
    ⟨_, exec_dsi s, rfl, State.readByte_setIe s false⟩, ⟨_, exec_hlt s, rfl, State.readByte_haltWith s _⟩⟩

end Sys2Proof.Machine
end

section
/-! The execute stage of 43_alu.md: `AddOp` and `SubOp` (R101, R102) through their 16-bit intermediates, then the effect of each
instruction (R103 to R120). -/

namespace Sys2Proof.Machine

/-! ## `AddOp` and `SubOp` (R101, R102) -/

section Intermediate

variable (x y : Byte) (cin : Bool) (t : BitVec 16)

/-- No sum of two bytes and a carry-in leaves the 16 bits. -/
theorem addWide_toNat : (addWide x y cin).toNat = x.toNat + y.toNat + cin.toNat := by
  have hx := x.isLt
  have hy := y.isLt
  have hc := cin.toNat_le
  simp [addWide]
  omega

theorem subWide_toNat : (subWide x y).toNat = (65536 + x.toNat - y.toNat) % 65536 := by
  have hx := x.isLt
  have hy := y.isLt
  simp [subWide]
  omega

theorem lowByte_toNat : (t.extractLsb' 0 8).toNat = t.toNat % 256 := by
  simp

theorem arithFlags_z_iff : (arithFlags x y t).z = true ↔ t.toNat % 256 = 0 := by
  simp [arithFlags, ← BitVec.toNat_inj]

theorem arithFlags_n_iff : (arithFlags x y t).n = true ↔ 128 ≤ t.toNat % 256 := by
  rw [← lowByte_toNat]
  exact byte_msb_iff _

theorem arithFlags_c_iff : (arithFlags x y t).c = true ↔ t.toNat / 256 % 2 = 1 := by
  simp [arithFlags, BitVec.getLsbD, Nat.testBit_eq_decide_div_mod_eq]

theorem arithFlags_v_iff :
    (arithFlags x y t).v = true ↔ x.msb = y.msb ∧ (t.extractLsb' 0 8).msb ≠ x.msb := by
  simp [arithFlags, overflowTest]

end Intermediate

/-- The signed value of a byte. -/
theorem byte_toInt (v : Byte) : v.toInt = if v.msb = true then (v.toNat : Int) - 256 else v.toNat := by
  rw [BitVec.toInt_eq_msb_cond]
  rfl

/-- Overflow of `AddOp` is signed overflow of the sum: the sign test on numbers (R101). -/
theorem addOp_overflow_iff_signed (x y : Byte) (cin : Bool) :
    (addOp x y cin).2.v = true ↔ x.toInt + y.toInt + cin.toNat < -128 ∨ 127 < x.toInt + y.toInt + cin.toNat := by
  have hx := x.isLt
  have hy := y.isLt
  have hc := cin.toNat_le
  have hmsb (v w : Byte) : v.msb = w.msb ↔ (128 ≤ v.toNat ↔ 128 ≤ w.toNat) := by
    rw [← byte_msb_iff, ← byte_msb_iff, Bool.eq_iff_iff]
  rw [addOp, arithFlags_v_iff, ne_eq, hmsb, hmsb, lowByte_toNat, addWide_toNat, byte_toInt, byte_toInt]
  simp only [byte_msb_iff]
  omega

/-- Settles O15: every clause is the intermediate's, whose value is the exact sum. -/
theorem addOpResultAndFlags : Obligations.AddOpResultAndFlags := by
  intro x y cin
  have hx := x.isLt
  have hy := y.isLt
  have hc := cin.toNat_le
  refine ⟨?result, ?zero, ?negative, ?carry, arithFlags_v_iff x y _, addOp_overflow_iff_signed x y cin⟩
  case result => rw [addOp, lowByte_toNat, addWide_toNat]
  case zero => rw [addOp, arithFlags_z_iff, addWide_toNat]
  case negative => rw [addOp, arithFlags_n_iff, addWide_toNat]
  case carry =>
    rw [addOp, arithFlags_c_iff, addWide_toNat]
    omega

/-- Settles O16: as for `AddOp`, with the intermediate a difference modulo 2^16, whose bit 8 is the borrow. -/
theorem subOpResultAndFlags : Obligations.SubOpResultAndFlags := by
  refine ⟨fun x y => ?_, by decide, by decide⟩
  have hx := x.isLt
  have hy := y.isLt
  refine ⟨?result, ?zero, ?negative, ?carry, arithFlags_v_iff x y _⟩
  case result =>
    rw [subOp, lowByte_toNat, subWide_toNat]
    omega
  case zero =>
    rw [subOp, arithFlags_z_iff, subWide_toNat, ← BitVec.toNat_inj]
    omega
  case negative =>
    rw [subOp, arithFlags_n_iff, subWide_toNat]
    omega
  case carry =>
    rw [subOp, arithFlags_c_iff, subWide_toNat]
    omega

/-! ## Additions and subtractions (R104 to R110) -/

section Arithmetic

variable (o : Arg) (r : Reg) (s : State)

theorem exec_add : exec (.add o) s = .next (s.setAFlags (addOp s.a (argval o s) false)) := rfl
theorem exec_adc : exec (.adc o) s = .next (s.setAFlags (addOp s.a (argval o s) s.flags.c)) := rfl
theorem exec_incA : exec .incA s = .next (s.setAFlags (addOp s.a 1#8 false)) := rfl
theorem exec_inc : exec (.inc r) s = .next (s.setRegFlags r (addOp (s.getReg r) 1#8 false)) := rfl
theorem exec_sub : exec (.sub o) s = .next (s.setAFlags (subOp s.a (argval o s))) := rfl
theorem exec_decA : exec .decA s = .next (s.setAFlags (subOp s.a 1#8)) := rfl
theorem exec_dec : exec (.dec r) s = .next (s.setRegFlags r (subOp (s.getReg r) 1#8)) := rfl

variable (p : Byte × Flags)

theorem State.sameBytes_setAFlags : SameBytes s (s.setAFlags p) := sameBytes_of_mem rfl

theorem State.sameBytes_setRegFlags : SameBytes s (s.setRegFlags r p) := sameBytes_of_mem rfl

theorem State.getReg_setRegFlags_same : (s.setRegFlags r p).getReg r = p.1 := State.getReg_setReg_same s r p.1

theorem State.getReg_setRegFlags_other (q : Reg) (hq : q ≠ r) : (s.setRegFlags r p).getReg q = s.getReg q :=
  State.getReg_setReg_other s p.1 hq

end Arithmetic

/-- Settles O27: each addition writes `AddOp`'s result and flags in one update. -/
theorem additionsWriteResultAndFlags : Obligations.AdditionsWriteResultAndFlags := fun s =>
  ⟨fun o => ⟨_, exec_add o s, rfl, State.sameBytes_setAFlags s _⟩,
    fun o => ⟨_, exec_adc o s, rfl, State.sameBytes_setAFlags s _⟩,
    ⟨_, exec_incA s, rfl, State.sameBytes_setAFlags s _⟩,
    fun r => ⟨_, exec_inc r s, State.getReg_setRegFlags_same r s _, State.getReg_setRegFlags_other r s _, rfl,
      State.sameBytes_setRegFlags r s _⟩⟩

/-- Settles O28: each subtraction writes `SubOp`'s result and flags in one update. -/
theorem subtractionsWriteResultAndFlags : Obligations.SubtractionsWriteResultAndFlags := fun s =>
  ⟨fun o => ⟨_, exec_sub o s, rfl, State.sameBytes_setAFlags s _⟩,
    ⟨_, exec_decA s, rfl, State.sameBytes_setAFlags s _⟩,
    fun r => ⟨_, exec_dec r s, State.getReg_setRegFlags_same r s _, State.getReg_setRegFlags_other r s _, rfl,
      State.sameBytes_setRegFlags r s _⟩⟩

/-! ## Shifts and rotates (R112 to R115) -/

section ShiftedByte

variable (v : Byte)

theorem byte_toNat_shiftRight_one : (v >>> 1).toNat = v.toNat / 2 := by
  simp [Nat.shiftRight_eq_div_pow]

/-- A shift right that keeps bit 7 is the arithmetic shift. -/
theorem byte_sra_eq_sshiftRight : (v >>> 1) ||| (v &&& 0x80#8) = v.sshiftRight 1 := by
  revert v
  decide

theorem byte_toInt_sshiftRight_one : (v.sshiftRight 1).toInt = v.toInt / 2 := by
  simp [Int.shiftRight_eq_div_pow]

/-- The seven low bits in front of bit 7 are the byte rotated left. -/
theorem byte_rol_eq_rotateLeft : v.extractLsb' 0 7 ++ v.extractLsb' 7 1 = v.rotateLeft 1 := by
  revert v
  decide

/-- Bit 0 in front of the seven high bits is the byte rotated right. -/
theorem byte_ror_eq_rotateRight : v.extractLsb' 0 1 ++ v.extractLsb' 1 7 = v.rotateRight 1 := by
  revert v
  decide

theorem byte_toNat_rotateLeft_one : (v.rotateLeft 1).toNat = v.toNat % 128 * 2 + v.toNat / 128 := by
  revert v
  decide

theorem byte_toNat_rotateRight_one : (v.rotateRight 1).toNat = v.toNat % 2 * 128 + v.toNat / 2 := by
  revert v
  decide

end ShiftedByte

section Shifts

variable (s : State)

theorem exec_shr : exec .shr s =
    .next (s.setAFlags (s.a >>> 1, znFlags (s.a >>> 1) { s.flags with c := false })) := rfl

theorem exec_sra : exec .sra s =
    .next (s.setAFlags (s.a.sshiftRight 1, znFlags (s.a.sshiftRight 1) { s.flags with c := false })) := by
  rw [← byte_sra_eq_sshiftRight]
  rfl

theorem exec_rol : exec .rol s = .next (s.setAFlags (s.a.rotateLeft 1, znFlags (s.a.rotateLeft 1) s.flags)) := by
  rw [← byte_rol_eq_rotateLeft]
  rfl

theorem exec_ror : exec .ror s = .next (s.setAFlags (s.a.rotateRight 1, znFlags (s.a.rotateRight 1) s.flags)) := by
  rw [← byte_ror_eq_rotateRight]
  rfl

end Shifts

/-- Settles O30: zero and negative by `ZN` of the half; the unsigned half has no bit 7, the signed half keeps it. -/
theorem shiftsRight : Obligations.ShiftsRight := fun s =>
  have hshr : (s.a >>> 1).msb = false := by
    have ha := s.a.isLt
    rw [Bool.eq_false_iff, ne_eq, byte_msb_iff, byte_toNat_shiftRight_one]
    omega
  have hsra : (s.a.sshiftRight 1).msb = true ↔ 128 ≤ s.a.toNat := by
    rw [BitVec.msb_sshiftRight, byte_msb_iff]
  ⟨⟨_, exec_shr s, byte_toNat_shiftRight_one s.a, rfl, znFlags_z_iff _ _, hshr, rfl, rfl,
      State.sameBytes_setAFlags s _⟩,
    ⟨_, exec_sra s, byte_toInt_sshiftRight_one s.a, rfl, znFlags_z_iff _ _, hsra, rfl, rfl,
      State.sameBytes_setAFlags s _⟩⟩

/-- Settles O31: a rotated byte is zero exactly when the byte is, and bit 0 rotated right is the sign. -/
theorem rotates : Obligations.Rotates := by
  intro s
  have ha := s.a.isLt
  refine ⟨⟨_, exec_rol s, rfl, ?zeroLeft, znFlags_n_iff _ _, rfl, rfl, rfl, State.sameBytes_setAFlags s _⟩,
    ⟨_, exec_ror s, rfl, ?zeroRight, ?negativeRight, rfl, rfl, rfl, State.sameBytes_setAFlags s _⟩⟩
  case zeroLeft =>
    refine (znFlags_z_iff _ _).trans ?_
    rw [byte_toNat_rotateLeft_one]
    omega
  case zeroRight =>
    refine (znFlags_z_iff _ _).trans ?_
    rw [byte_toNat_rotateRight_one]
    omega
  case negativeRight =>
    refine (znFlags_n_iff _ _).trans ?_
    rw [byte_toNat_rotateRight_one]
    omega

/-! ## Logic, exchange and clear (R103, R116 to R120) -/

section Logic

variable (o : Arg) (r : Reg) (s : State)

theorem exec_and : exec (.and o) s =
    .next (s.setAFlags (s.a &&& argval o s, forcedFlags (s.a &&& argval o s) false false)) := rfl

theorem exec_or : exec (.or o) s =
    .next (s.setAFlags (s.a ||| argval o s, forcedFlags (s.a ||| argval o s) false false)) := rfl

theorem exec_xor : exec (.xor o) s =
    .next (s.setAFlags (s.a ^^^ argval o s, forcedFlags (s.a ^^^ argval o s) true false)) := rfl

theorem exec_swp : exec (.swp r) s = .next ((s.setReg r s.a).setA (s.getReg r)) := rfl
theorem exec_clr : exec .clr s = .next (s.setA 0#8) := rfl
theorem exec_cflags : exec .cflags s = .next (s.setFlags Flags.clear) := rfl

end Logic

/-- Settles O32: zero and negative by `ZN` of the result over the forced carry and overflow. -/
theorem logicOperations : Obligations.LogicOperations := fun o s =>
  ⟨⟨_, exec_and o s, fun _ => BitVec.getLsbD_and, znFlags_z_iff _ _, znFlags_n_iff _ _, rfl, rfl, rfl,
      State.sameBytes_setAFlags s _⟩,
    ⟨_, exec_or o s, fun _ => BitVec.getLsbD_or, znFlags_z_iff _ _, znFlags_n_iff _ _, rfl, rfl, rfl,
      State.sameBytes_setAFlags s _⟩,
    ⟨_, exec_xor o s, fun _ => BitVec.getLsbD_xor, znFlags_z_iff _ _, znFlags_n_iff _ _, rfl, rfl, rfl,
      State.sameBytes_setAFlags s _⟩⟩

/-- Settles O33: the register is read before it is written, and its write rolls no segment. -/
theorem swapExchanges : Obligations.SwapExchanges := fun r s =>
  ⟨_, exec_swp r s, rfl, State.getReg_setReg_same s r s.a, fun _ hq => State.getReg_setReg_other s s.a hq, rfl,
    State.readByte_setReg s r s.a⟩

/-- Settles O34. -/
theorem clears : Obligations.Clears := fun s =>
  ⟨⟨_, exec_clr s, rfl, State.readByte_setA s _⟩, ⟨_, exec_cflags s, rfl, State.readByte_setFlags s _⟩⟩

end Sys2Proof.Machine
end

section
/-! The stack (R42, R43) as one 16-bit pointer `ss ++ sp`: a push moves it one up, a pop one down, and a pop undoes a push. Then
the stack instructions of 41_stack.md, interrupt entry (R127) and the return from it (R124). -/

namespace Sys2Proof.Machine

/-! ## The pair `ss ++ sp` -/

/-- An offset one up, carrying into its segment, is the address one up (R33, R42). -/
theorem segAddr_carry (seg off : Byte) :
    segAddr (if off = 0xFF#8 then seg + 1#8 else seg) (off + 1#8) = segAddr seg off + 1#16 := by
  have hseg := seg.isLt
  have hoff := off.isLt
  apply BitVec.eq_of_toNat_eq
  by_cases hroll : off = 0xFF#8
  · subst hroll
    simp [segAddr_toNat]
    omega
  · have hne : off.toNat ≠ 255 := fun h => hroll (BitVec.eq_of_toNat_eq h)
    simp [segAddr_toNat, hroll]
    omega

/-- An offset one down, borrowing from its segment, is the address one down (R33, R43). -/
theorem segAddr_borrow (seg off : Byte) :
    segAddr (if off = 0x00#8 then seg - 1#8 else seg) (off - 1#8) = segAddr seg off - 1#16 := by
  have hseg := seg.isLt
  have hoff := off.isLt
  apply BitVec.eq_of_toNat_eq
  by_cases hroll : off = 0x00#8
  · subst hroll
    simp [segAddr_toNat]
    omega
  · have hne : off.toNat ≠ 0 := fun h => hroll (BitVec.eq_of_toNat_eq h)
    simp [segAddr_toNat, hroll]
    omega

/-- One address is that of one pair (R33). -/
theorem segAddr_injective {seg off seg' off' : Byte} (h : segAddr seg off = segAddr seg' off') : seg = seg' ∧ off = off' :=
  ⟨by rw [← segAddr_hi seg off, h, segAddr_hi], by rw [← segAddr_lo seg off, h, segAddr_lo]⟩

/-- Settles O13: the halves of an address are its pair. -/
theorem argumentValueAndSegmentAddress : Obligations.ArgumentValueAndSegmentAddress :=
  ⟨fun _ _ => rfl, fun _ _ => rfl, segAddr_toNat,
    fun x => ⟨_, _, segAddr_split x, fun _ _ h => segAddr_injective (h.trans (segAddr_split x).symm)⟩⟩

theorem State.pushAddr_push (s : State) (v : Byte) : (s.push v).pushAddr = s.pushAddr + 1#16 :=
  segAddr_carry s.ss s.bank.sp

/-- A pop reads one below the stack pointer, which is where it leaves the stack pointer (R43). -/
theorem State.popAddr_eq (s : State) : s.popAddr = s.pushAddr - 1#16 :=
  segAddr_borrow s.ss s.bank.sp

theorem State.pushAddr_popped (s : State) : s.popped.pushAddr = s.pushAddr - 1#16 :=
  s.popAddr_eq

theorem State.popValue_eq (s : State) : s.popValue = s.readByte (s.pushAddr - 1#16) := by
  rw [State.popValue, State.popAddr_eq]

theorem State.getReg_sp (s : State) : s.getReg .sp = s.bank.sp := rfl

/-! ## The stack instructions (R84 to R87) -/

theorem exec_push (o : Arg) (s : State) : exec (.push o) s = .next (s.push (argval o s)) := rfl
theorem exec_pushCsr (s : State) : exec .pushCsr s = .next (s.push s.csr) := rfl
theorem exec_pop (r : Reg) (s : State) : exec (.pop r) s = .next (s.popped.setReg r s.popValue) := rfl
theorem exec_popCsr (s : State) : exec .popCsr s = .next (s.popped.setCsr s.popValue) := rfl

theorem State.readByte_push_same (s : State) (v : Byte) : (s.push v).readByte s.pushAddr = v := by
  rw [State.readByte_push, if_pos rfl]

theorem State.readByte_push_other (s : State) (v : Byte) {x : Addr} (h : x ≠ s.pushAddr) :
    (s.push v).readByte x = s.readByte x := by
  rw [State.readByte_push, if_neg h]

/-- Settles O21: both pushes are `Push` of a byte read first. -/
theorem pushStoresAndAdvancesTheStack : Obligations.PushStoresAndAdvancesTheStack := by
  intro i v s h
  have hpush : exec i s = .next (s.push v) := by
    obtain ⟨o, rfl, rfl⟩ | ⟨rfl, rfl⟩ := h
    · exact exec_push o s
    · exact exec_pushCsr s
  exact ⟨_, hpush, State.readByte_push_same s v, fun _ hx => State.readByte_push_other s v hx, rfl,
    State.pushAddr_push s v, rfl, fun _ hr => State.getReg_push_other s v hr, rfl⟩

/-- Settles O22: the byte by `State.popValue_eq`, the stack pointer by `State.popAddr_eq`; `POP SP` overwrites the SP that the
pop left and not the roll of `ss`. -/
theorem popReadsBelowTheStackPointer : Obligations.PopReadsBelowTheStackPointer := by
  refine fun s => ⟨fun r => ⟨_, exec_pop r s, ?value, fun hr => ?sp, s.popAddr_eq, fun q hqr hsp => ?others, rfl,
    sameBytes_of_mem rfl⟩, ⟨_, exec_popCsr s, s.popValue_eq, s.pushAddr_popped, fun q hq => ?bank, rfl,
    sameBytes_of_mem rfl⟩⟩
  case value => exact (State.getReg_setReg_same _ r _).trans s.popValue_eq
  case sp => exact State.getReg_setReg_other s.popped _ (Ne.symm hr)
  case others => exact (State.getReg_setReg_other s.popped _ hqr).trans (State.getReg_popped_other s hsp)
  case bank => exact State.getReg_popped_other s hq

/-! ## A pop after a push -/

/-- A pop takes the stack pointer of a push back, across a segment boundary too, and leaves the stored byte. -/
theorem State.popped_push (s : State) (v : Byte) : (s.push v).popped = s.writeByte s.pushAddr v := by
  have hpair : segAddr (s.push v).ssAfterPop ((s.push v).bank.sp - 1#8) = segAddr s.ss s.bank.sp :=
    calc (s.push v).popAddr
      _ = s.pushAddr + 1#16 - 1#16 := by rw [State.popAddr_eq, State.pushAddr_push]
      _ = s.pushAddr := BitVec.add_sub_cancel _ _
  obtain ⟨hss, hsp⟩ := segAddr_injective hpair
  rw [State.popped, hss, hsp]
  simp only [State.push, State.setReg, State.setSs, State.writeByte, Bank.set_set, Bank.set_sp_self]

/-- A pop gives back the byte of the push before it. -/
theorem State.popValue_push (s : State) (v : Byte) : (s.push v).popValue = v := by
  rw [State.popValue_eq, State.pushAddr_push, BitVec.add_sub_cancel, State.readByte_push_same]

/-- Settles O23. -/
theorem popUndoesPush : Obligations.PopUndoesPush := by
  refine fun o r s => ⟨_, _, exec_push o s, exec_pop r _, ?_⟩
  rw [State.popped_push, State.popValue_push]
  exact ⟨State.getReg_setReg_same _ r _, rfl, fun _ hq => State.getReg_setReg_other _ _ hq⟩

/-! ## The return from an interrupt (R124) -/

theorem exec_iret (s : State) : exec .iret s = .next s.interruptReturn := rfl

/-- Two pops move the stack pointer two down. -/
theorem State.pushAddr_popped_popped (s : State) : s.popped.popped.pushAddr = s.pushAddr - 2#16 := by
  rw [State.pushAddr_popped, State.pushAddr_popped]
  exact BitVec.sub_sub _ 1#16 1#16

/-- The second pop of the return reads two below the stack pointer. -/
theorem State.popValue_popped (s : State) : s.popped.popValue = s.readByte (s.pushAddr - 2#16) := by
  rw [State.popValue_eq, ← State.pushAddr_popped, State.pushAddr_popped_popped, State.readByte_popped]

/-- The return from an interrupt leaves every field but the program counter, the stack pointer and the latch. -/
theorem State.interruptReturn_frame (s : State) : s.interruptReturn = { s with
    cs := s.interruptReturn.cs, ip := s.interruptReturn.ip, ss := s.interruptReturn.ss, bank := s.interruptReturn.bank,
    iePend := s.interruptReturn.iePend } := by
  change State.mk s.interruptReturn.a s.interruptReturn.cs s.interruptReturn.ip s.interruptReturn.ds s.interruptReturn.ss
    s.interruptReturn.csr s.interruptReturn.bank s.interruptReturn.flags s.interruptReturn.ie s.interruptReturn.iePend
    s.interruptReturn.halted s.interruptReturn.haltReason s.interruptReturn.mem s.interruptReturn.cycleNo = _
  rw [State.interruptReturn_a, State.interruptReturn_ds, State.interruptReturn_csr, State.interruptReturn_flags,
    State.interruptReturn_ie, State.interruptReturn_halted, State.interruptReturn_haltReason, State.interruptReturn_mem,
    State.interruptReturn_cycleNo]

/-- Settles O36: the first pop gives `ip`, the second `cs`. -/
theorem returnFromInterrupt : Obligations.ReturnFromInterrupt := fun s =>
  ⟨_, exec_iret s, s.popValue_eq, s.popValue_popped, s.pushAddr_popped_popped, rfl,
    fun _ hq => State.getReg_interruptReturn_other s hq, s.interruptReturn_frame, State.readByte_interruptReturn s⟩

/-! ## Interrupt entry (R127) -/

theorem addr_ne_succ (x : Addr) : x ≠ x + 1#16 := by
  intro h
  have hnat := congrArg BitVec.toNat h
  simp at hnat
  omega

/-- The bytes after interrupt entry: `ip` above `cs` at the old stack pointer, every other byte as before. -/
theorem State.readByte_interruptEntry_eq (s : State) (x : Addr) :
    s.interruptEntry.readByte x =
      if x = s.pushAddr + 1#16 then s.ip else if x = s.pushAddr then s.cs else s.readByte x := by
  rw [State.readByte_interruptEntry, State.readByte_push, State.readByte_push, State.pushAddr_push]

theorem State.pushAddr_interruptEntry (s : State) : s.interruptEntry.pushAddr = s.pushAddr + 2#16 := by
  have h : s.interruptEntry.pushAddr = ((s.push s.cs).push s.ip).pushAddr := rfl
  rw [h, State.pushAddr_push, State.pushAddr_push]
  exact BitVec.add_assoc _ 1#16 1#16

/-- Interrupt entry leaves every bank register but SP. -/
theorem State.getReg_interruptEntry_other (s : State) {q : Reg} (h : q ≠ .sp) :
    s.interruptEntry.getReg q = s.getReg q :=
  (State.getReg_push_other (s.push s.cs) s.ip h).trans (State.getReg_push_other s s.cs h)

theorem State.interruptEntry_cs_eq (s : State) : s.interruptEntry.cs = s.interruptEntry.readByte 0xFFFE#16 := by
  rw [State.interruptEntry_cs, State.readByte_interruptEntry]
  rfl

theorem State.interruptEntry_ip_eq (s : State) : s.interruptEntry.ip = s.interruptEntry.readByte 0xFFFF#16 := by
  rw [State.interruptEntry_ip, State.readByte_interruptEntry]
  rfl

/-- Interrupt entry leaves every field but the program counter, the stack pointer, `ie` and memory. -/
theorem State.interruptEntry_frame (s : State) : s.interruptEntry = { s with
    cs := s.interruptEntry.cs, ip := s.interruptEntry.ip, ss := s.interruptEntry.ss, bank := s.interruptEntry.bank,
    ie := false, mem := s.interruptEntry.mem } := by
  change State.mk s.interruptEntry.a s.interruptEntry.cs s.interruptEntry.ip s.interruptEntry.ds s.interruptEntry.ss
    s.interruptEntry.csr s.interruptEntry.bank s.interruptEntry.flags s.interruptEntry.ie s.interruptEntry.iePend
    s.interruptEntry.halted s.interruptEntry.haltReason s.interruptEntry.mem s.interruptEntry.cycleNo = _
  rw [State.interruptEntry_a, State.interruptEntry_ds, State.interruptEntry_csr, State.interruptEntry_flags,
    State.interruptEntry_ie, State.interruptEntry_iePend, State.interruptEntry_halted, State.interruptEntry_haltReason,
    State.interruptEntry_cycleNo]

/-- Settles O43: the two stored bytes and the frame by `State.readByte_interruptEntry_eq`. -/
theorem interruptEntrySavesAndVectors : Obligations.InterruptEntrySavesAndVectors := by
  refine fun s => ⟨?cs, ?ip, fun x h0 h1 => ?others, s.pushAddr_interruptEntry,
    fun _ hr => s.getReg_interruptEntry_other hr, s.interruptEntry_ie, s.interruptEntry_cs_eq, s.interruptEntry_ip_eq,
    s.interruptEntry_frame⟩
  case cs => rw [State.readByte_interruptEntry_eq, if_neg (addr_ne_succ _), if_pos rfl]
  case ip => rw [State.readByte_interruptEntry_eq, if_pos rfl]
  case others => rw [State.readByte_interruptEntry_eq, if_neg h1, if_neg h0]

/-- Settles O48: the vector slot read through the two stored bytes. -/
theorem entryOverTheVectorSlot : Obligations.EntryOverTheVectorSlot := by
  intro s hss
  rw [State.interruptEntry_cs_eq, State.interruptEntry_ip_eq, State.readByte_interruptEntry_eq,
    State.readByte_interruptEntry_eq]
  refine ⟨fun hsp => ?both, fun hsp => ?segment⟩
  case both =>
    have hpair : s.interruptEntry.pushAddr = segAddr 0x00#8 0x00#8 := by
      rw [State.pushAddr_interruptEntry, State.pushAddr, hss, ← State.getReg_sp, hsp]
      decide
    have haddr : s.pushAddr = 0xFFFE#16 := by
      rw [State.pushAddr, hss, ← State.getReg_sp, hsp]
      decide
    rw [haddr]
    exact ⟨rfl, rfl, segAddr_injective hpair⟩
  case segment =>
    have haddr : s.pushAddr = 0xFFFD#16 := by
      rw [State.pushAddr, hss, ← State.getReg_sp, hsp]
      decide
    rw [haddr]
    exact ⟨rfl, rfl⟩

/-- The return from an interrupt right after its entry: everything but `ie`, the latch and the two stored bytes is restored. -/
theorem State.interruptReturn_interruptEntry (s : State) : s.interruptEntry.interruptReturn =
    (((s.writeByte s.pushAddr s.cs).writeByte (s.pushAddr + 1#16) s.ip).setIe false).setIePend true := by
  have hip : s.interruptEntry.popValue = s.ip := State.popValue_push (s.push s.cs) s.ip
  have hpopped : ((s.push s.cs).push s.ip).popped = (s.push s.cs).writeByte (s.pushAddr + 1#16) s.ip := by
    rw [State.popped_push, State.pushAddr_push]
  have hcs : s.interruptEntry.popped.popValue = s.cs :=
    calc ((s.push s.cs).push s.ip).popped.popValue
      _ = ((s.push s.cs).writeByte (s.pushAddr + 1#16) s.ip).popValue := by rw [hpopped]
      _ = ((s.push s.cs).writeByte (s.pushAddr + 1#16) s.ip).readByte (s.push s.cs).popAddr := rfl
      _ = (s.push s.cs).readByte s.pushAddr := by
        rw [State.popAddr_eq, State.pushAddr_push, BitVec.add_sub_cancel,
          State.readByte_writeByte_other _ _ _ _ (addr_ne_succ _)]
      _ = s.cs := State.readByte_push_same s s.cs
  have hstack : ((s.push s.cs).push s.ip).popped.popped =
      (s.writeByte s.pushAddr s.cs).writeByte (s.pushAddr + 1#16) s.ip := by
    rw [hpopped]
    exact congrArg (State.writeByte · (s.pushAddr + 1#16) s.ip) (State.popped_push s s.cs)
  calc s.interruptEntry.interruptReturn
    _ = ((((s.push s.cs).push s.ip).popped.popped.setIe false).setPc s.interruptEntry.popped.popValue
          s.interruptEntry.popValue).setIePend true := rfl
    _ = _ := by
      rw [hip, hcs, hstack]
      rfl

/-- Settles O49. -/
theorem returnUndoesInterruptEntry : Obligations.ReturnUndoesInterruptEntry := by
  refine fun s => ⟨_, exec_iret _, ?fields, fun x h0 h1 => ?bytes⟩
  case fields =>
    rw [State.interruptReturn_interruptEntry]
    rfl
  case bytes => rw [State.readByte_interruptReturn, State.readByte_interruptEntry_eq, if_neg h1, if_neg h0]

end Sys2Proof.Machine
end

section
/-! The instruction cycle of 60_exceptions.md (R126): the step as a cycle, the end of a cycle by cases, the decode-failure halt
(R130), the halted core (R144), and the interrupt controller (R128, R129, R134, R135, R150). -/

namespace Sys2Proof.Machine

/-! ## The step and the halted core -/

/-- Settles O37: the step is the cycle under the default table, and its execute phase starts in `executeState`. -/
theorem stepRunsTheDecodedInstruction : Obligations.StepRunsTheDecodedInstruction := by
  intro s i hrun hi n u
  have hu : u = executeState OpTable.default s := rfl
  have hinstr : (fetchDecode OpTable.default s).instr = some i := hi
  rw [hu, step_eq_cycle]
  refine ⟨fun t ht => cycle_of_exec _ hrun hinstr ht, fun f hf => ?fault, fun r hr => ?refused⟩
  case fault => simp [cycle, hrun, hinstr, hf]
  case refused => simp [cycle, hrun, hinstr, hr]

theorem cycle_of_halted {T : OpTable} {irq : Bool} {s : State} (h : s.halted = true) :
    cycle T irq s = .fault (haltFault s.haltReason) := by
  simp [cycle, h]

/-- Settles O40: the fault is named after the recorded reason. -/
theorem haltedCoreHasNoCycle : Obligations.HaltedCoreHasNoCycle := by
  intro T irq s hhalt
  rw [cycle_of_halted hhalt]
  refine ⟨⟨_, rfl⟩, fun ⟨_, hreason⟩ => by rw [hreason]; rfl, fun ⟨_, hreason⟩ => ?failed⟩
  case failed => obtain hreason | hreason | hreason := hreason <;> simp [hreason, haltFault]

/-! ## The decode-failure halt (R130) -/

theorem State.pc_advance (s : State) (n : Nat) : (s.advance n).pc = s.pc + BitVec.ofNat 16 n :=
  segAddr_split _

theorem decodeFailureState_pc {T : OpTable} (hT : T.Valid) {s : State} (hnone : (fetchDecode T s).instr = none) :
    (decodeFailureState T s).pc = s.pc + 1#16 := by
  obtain ⟨-, hconsumed⟩ := fetchDecode_failure hT hnone
  have h : (decodeFailureState T s).pc = (s.countCycle.advance (consumed T s)).pc := rfl
  rw [h, State.pc_advance, hconsumed]
  rfl

/-- Settles O38: the three reasons and the one byte consumed by `fetchDecode_failure`. -/
theorem decodeFailureHalts : Obligations.DecodeFailureHalts := by
  intro T irq s hT hrun hnone
  refine ⟨_, cycle_of_decodeFailure irq hrun hnone, rfl, ?reason, decodeFailureState_pc hT hnone, rfl,
    sameBytes_of_mem rfl⟩
  case reason =>
    rw [decodeFailureState_haltReason]
    obtain ⟨hreason | hreason | hreason, -⟩ := fetchDecode_failure hT hnone <;> simp [hreason, haltReasonOf]

/-- Settles O42: a cycle that executed its instruction ends halted exactly after `HLT`. -/
theorem onlyHltAndDecodeFailuresHalt : Obligations.OnlyHltAndDecodeFailuresHalt := by
  intro T irq s t h
  obtain ⟨hrun, ⟨hnone, rfl⟩ | ⟨i, u, hi, hu, rfl⟩⟩ := cycle_next h
  · simp [hnone, decodeFailureState_halted]
  · rw [hi]
    by_cases hhlt : i = .hlt
    · subst hhlt
      cases hu
      simp
    · have hend : (endCycle i irq u).halted = false := by
        simp [endCycle_of_ne i irq u hhlt, exec_halted_of_ne_hlt hu hhlt, executeState_halted, hrun]
      simp [hend, hhlt]

/-! ## The interrupt check and the latch -/

/-- The end of a cycle that takes the interrupt: entry, then the latch (R126). -/
theorem endCycle_taken {i : Instr} {irq : Bool} {u : State} (hhlt : i ≠ .hlt) (htake : u.ie = true ∧ irq = true) :
    endCycle i irq u = { u.interruptEntry with ie := u.iePend, iePend := false } := by
  rw [endCycle_of_ne i irq u hhlt, interruptCheck_eq_ite, if_pos htake, enableLatch_eq, State.interruptEntry_ie,
    State.interruptEntry_iePend, Bool.false_or]

/-- The end of a cycle that takes no interrupt: the latch only (R126). -/
theorem endCycle_notTaken {i : Instr} {irq : Bool} {u : State} (hhlt : i ≠ .hlt) (htake : ¬ (u.ie = true ∧ irq = true)) :
    endCycle i irq u = { u with ie := u.ie || u.iePend, iePend := false } := by
  rw [endCycle_of_ne i irq u hhlt, interruptCheck_eq_ite, if_neg htake, enableLatch_eq]

/-- Settles O44. -/
theorem interruptCheckAfterTheInstruction : Obligations.InterruptCheckAfterTheInstruction := by
  intro T irq s u i hrun hi hu
  have hcycle := cycle_of_exec irq hrun hi hu
  split
  · next hhlt =>
    subst hhlt
    exact hcycle
  · next hhlt => exact ⟨_, hcycle, endCycle_taken hhlt, endCycle_notTaken hhlt⟩

/-- The two instructions that set the latch leave `ie` to it, and neither is `HLT`. -/
theorem exec_latchWriter {i : Instr} {s u : State} (hi : i = .eni ∨ i = .iret) (hu : exec i s = .next u) :
    u.ie = s.ie ∧ u.iePend = true ∧ i ≠ .hlt := by
  rw [exec_ie hu, exec_iePend hu]
  obtain rfl | rfl := hi <;> simp

/-- Settles O45: the latch of `executeState` is clear, so that it is set after the instruction by its two writers only; the check
sees the `ie` that they leave alone. -/
theorem enableLatchIsTheLastAction : Obligations.EnableLatchIsTheLastAction := by
  refine fun T irq s u i hrun hi hu => ⟨by simp [exec_iePend hu], fun hwriter => ?_⟩
  obtain ⟨hie, hpend, hhlt⟩ := exec_latchWriter hwriter hu
  rw [executeState_ie] at hie
  refine ⟨_, cycle_of_exec irq hrun hi hu, ?enabled, fun htake => ?taken, fun htake => ?notTaken⟩
  case enabled =>
    rw [endCycle_of_ne i irq u hhlt, enableLatch_ie, interruptCheck_eq_ite]
    split <;> simp [hpend]
  case taken => rw [endCycle_taken hhlt (hie ▸ htake), hpend]
  case notTaken => rw [endCycle_notTaken hhlt (hie ▸ htake), hpend, Bool.or_true]

/-- Settles O46: in both cycles `ie` is off at the check. -/
theorem enableIsDelayedByOneCycle : Obligations.EnableIsDelayedByOneCycle := by
  refine fun T irq s hrun => ⟨fun hi hoff => ?eni, fun hi => ?dsi⟩
  case eni =>
    rw [cycle_of_exec irq hrun hi (exec_eni _), endCycle_notTaken (by decide) (by simp [hoff])]
    simp [State.setIePend, executeState]
  case dsi =>
    rw [cycle_of_exec irq hrun hi (exec_dsi _), endCycle_notTaken (by decide) (by simp)]
    simp [State.setIe, State.setIePend, executeState]

/-- Settles O47: the entry clears `ie`, the latch after it sets it again. -/
theorem latchAfterEntryLeavesInterruptsEnabled : Obligations.LatchAfterEntryLeavesInterruptsEnabled := by
  intro T s i hrun hie hwriter hi
  obtain ⟨u, hu⟩ := exec_completes i (executeState T s)
  obtain ⟨hkeep, hpend, hhlt⟩ := exec_latchWriter hwriter hu
  have htake : u.ie = true ∧ true = true := ⟨hkeep.trans hie, rfl⟩
  refine ⟨_, cycle_of_exec true hrun hi hu, ?_⟩
  rw [endCycle_taken hhlt htake]
  exact ⟨hpend, rfl, u.interruptEntry_cs_eq, u.interruptEntry_ip_eq⟩

/-- Settles O50: no instruction sets `ie`, so that the check is off under either answer. -/
theorem requestIsMaskedByInterruptEnable : Obligations.RequestIsMaskedByInterruptEnable := by
  intro T s hoff
  cases hhalt : s.halted with
  | true => rw [cycle_of_halted hhalt, cycle_of_halted hhalt]
  | false =>
    cases hi : (fetchDecode T s).instr with
    | none => rw [cycle_of_decodeFailure _ hhalt hi, cycle_of_decodeFailure _ hhalt hi]
    | some i =>
      obtain ⟨u, hu⟩ := exec_completes i (executeState T s)
      have hie : u.ie = false := by simp [exec_ie hu, hoff]
      rw [cycle_of_exec _ hhalt hi hu, cycle_of_exec _ hhalt hi hu]
      simp only [endCycle, interruptCheck_off _ u hie]

end Sys2Proof.Machine
end

section
/-! The decoder of 30_encoding.md further: the converse round trip, the length rule (R67), the source's bytes under every valid
table and the words of the default table (R58), the two bytes that decide a decode (R145), the causes of a decode failure
(R69, R130), and stores seen by the fetch (R50). -/

namespace Sys2Proof

/-- Settles O2: of the outcomes of a decode, only a success gives an instruction, and it stands before the remainder. -/
theorem decodedBytesAreTheEncoding : Obligations.DecodedBytesAreTheEncoding := by
  intro T hT bs rest i h
  have hout := decodeWith_outcome hT bs
  generalize decodeWith T bs = d at hout h
  cases hout with
  | noData | invalidOpCode | invalidArgument | noImmediate => simp [Decoded.failed] at h
  | success j enc tail henc =>
    obtain ⟨rfl, rfl⟩ : j = i ∧ tail = rest := by simpa using h
    exact ⟨enc, henc, rfl⟩

/-! ## The length rule (R67) -/

section Length

variable {T : OpTable} {f : BitVec 5} {r : BitVec 3} {op : Mnemonic}

theorem lengthFromFirstByte_noArg (id : BitVec 6) : lengthFromFirstByte T (0b11#2 ++ id) = 1 := by
  rw [lengthFromFirstByte, noArgByte_top, if_pos rfl]

theorem lengthFromFirstByte_fam_unnamed (hf : f.toNat < 24) (h : T.fam f = none) : lengthFromFirstByte T (f ++ r) = 1 := by
  simp only [lengthFromFirstByte, famByte_top_iff, famByte_family, hf.not_ge, if_false, h]

theorem lengthFromFirstByte_cond (hf : f.toNat < 24) (h : T.fam f = some (op, .cond)) :
    lengthFromFirstByte T (f ++ r) = 2 := by
  simp only [lengthFromFirstByte, famByte_top_iff, famByte_family, hf.not_ge, if_false, h]

theorem lengthFromFirstByte_regOnly (hf : f.toNat < 24) (h : T.fam f = some (op, .regOnly)) :
    lengthFromFirstByte T (f ++ r) = 1 := by
  simp only [lengthFromFirstByte, famByte_top_iff, famByte_family, hf.not_ge, if_false, h]

theorem lengthFromFirstByte_immReg (hf : f.toNat < 24) (h : T.fam f = some (op, .immReg)) :
    lengthFromFirstByte T (f ++ r) = if r = 0#3 then 2 else 1 := by
  simp only [lengthFromFirstByte, famByte_top_iff, famByte_family, famByte_argument, hf.not_ge, if_false, h]

end Length

@[simp] theorem Decoded.ofShape_rest (sh : Shape) (rest : List Byte) : (Decoded.ofShape sh rest).rest = rest := by
  unfold Decoded.ofShape
  split <;> rfl

@[simp] theorem Decoded.ofShape_reason_ne_noImmediate (sh : Shape) (rest : List Byte) :
    (Decoded.ofShape sh rest).reason ≠ .noImmediate := by
  unfold Decoded.ofShape
  split <;> simp

/-- What the length rule says of one input (R67). -/
def LengthRule (T : OpTable) (b0 : Byte) (tail : List Byte) : Prop :=
  ((decodeWith T (b0 :: tail)).reason = .success →
    (decodeWith T (b0 :: tail)).rest.length + lengthFromFirstByte T b0 = tail.length + 1) ∧
  ((decodeWith T (b0 :: tail)).reason = .noImmediate ↔ lengthFromFirstByte T b0 = 2 ∧ tail = [])

/-- The length rule for a family's first byte, by the kind of the family and its argument field. -/
theorem lengthRule_famByte (T : OpTable) {f : BitVec 5} (hlt : f.toNat < 24) (r : BitVec 3) (tail : List Byte) :
    LengthRule T (f ++ r) tail := by
  unfold LengthRule
  cases hf : T.fam f with
  | none => simp [decodeWith_fam_unnamed hlt hf, lengthFromFirstByte_fam_unnamed hlt hf, Decoded.failed]
  | some row =>
    obtain ⟨op, k⟩ := row
    cases k with
    | cond =>
      cases tail with
      | nil => simp [decodeWith_cond_missing hlt hf, lengthFromFirstByte_cond hlt hf, Decoded.failed]
      | cons v rest => simp [decodeWith_cond hlt hf, lengthFromFirstByte_cond hlt hf]
    | regOnly =>
      by_cases hr : r = 0#3
      · simp [hr, decodeWith_regOnly_sentinel hlt hf, lengthFromFirstByte_regOnly hlt hf, Decoded.failed]
      · simp [decodeWith_regForm hlt hf (.inr rfl) hr, lengthFromFirstByte_regOnly hlt hf]
    | immReg =>
      rw [lengthFromFirstByte_immReg hlt hf]
      by_cases hr : r = 0#3
      · subst hr
        cases tail with
        | nil => simp [decodeWith_imm_missing hlt hf, Decoded.failed]
        | cons v rest => simp [decodeWith_imm hlt hf]
      · simp [hr, decodeWith_regForm hlt hf (.inl rfl) hr]

/-- Settles O4: a no-argument byte is whole, the rest by `lengthRule_famByte`. -/
theorem lengthFromTheFirstByte : Obligations.LengthFromTheFirstByte := by
  intro T _ b0 tail
  obtain ⟨id, rfl⟩ | ⟨f, r, hlt, rfl⟩ := firstByte_cases b0
  · cases hid : T.noarg id with
    | none => simp [decodeWith_noArg_unnamed hid, lengthFromFirstByte_noArg, Decoded.failed]
    | some op => simp [decodeWith_noArg hid, lengthFromFirstByte_noArg]
  · exact lengthRule_famByte T hlt r tail

/-! ## The source's bytes (R57) -/

section SourceBytes

variable {T : OpTable} (hT : T.Valid) (tail : List Byte)
include hT

theorem decodeWith_pop (r : Reg) :
    decodeWith T ((7#5 ++ r.bits) :: tail) = { instr := some (.pop r), rest := tail, reason := .success } :=
  (decodeWith_regForm (by decide) hT.src_pop (.inr rfl) r.bits_ne_zero tail).trans (ofShape_shape (.pop r) tail)

theorem decodeWith_dec (r : Reg) :
    decodeWith T ((22#5 ++ r.bits) :: tail) = { instr := some (.dec r), rest := tail, reason := .success } :=
  (decodeWith_regForm (by decide) hT.src_dec (.inr rfl) r.bits_ne_zero tail).trans (ofShape_shape (.dec r) tail)

theorem decodeWith_jcc (c : Cond) (v : Byte) :
    decodeWith T ((3#5 ++ c.bits) :: v :: tail) = { instr := some (.jcc c v), rest := tail, reason := .success } := by
  rw [decodeWith_cond (by decide) hT.src_jcc, Cond.ofBits_bits]
  exact ofShape_shape (.jcc c v) tail

end SourceBytes

/-- Settles O7: every listed byte is a family's id with the code of its register or condition. -/
theorem sourceBytesUnderEveryTable : Obligations.SourceBytesUnderEveryTable := by
  intro T hT
  refine ⟨?nop, Machine.decodeWith_ret hT [], Machine.decodeWith_shl hT [], fun b hb tail => ?sentinel,
    fun p hp tail => ?pop, fun p hp tail => ?dec, fun p hp => ?jcc⟩
  case nop => exact (decodeWith_noArg hT.src_nop _).trans (ofShape_shape .nop _)
  case sentinel =>
    obtain rfl | rfl : b = 7#5 ++ 0#3 ∨ b = 22#5 ++ 0#3 := by simpa using hb
    · exact decodeWith_regOnly_sentinel (by decide) hT.src_pop tail
    · exact decodeWith_regOnly_sentinel (by decide) hT.src_dec tail
  case pop =>
    have hbyte : p.1 = 7#5 ++ p.2.bits := by
      revert p
      decide
    rw [hbyte]
    exact decodeWith_pop hT tail p.2
  case dec =>
    have hbyte : p.1 = 22#5 ++ p.2.bits := by
      revert p
      decide
    rw [hbyte]
    exact decodeWith_dec hT tail p.2
  case jcc =>
    have hbyte : p.1 = 3#5 ++ (Cond.mk p.2.1 p.2.2).bits := by
      revert p
      decide
    rw [hbyte]
    exact ⟨decodeWith_cond_missing (by decide) hT.src_jcc, fun v tail => decodeWith_jcc hT tail _ v⟩

/-! ## The default table (R58) -/

theorem noArgByte_toNat (id : BitVec 6) : (0b11#2 ++ id).toNat = 192 + id.toNat := by
  have h := id.isLt
  rw [BitVec.toNat_append, ← Nat.shiftLeft_add_eq_or_of_lt h]
  rfl

theorem famByte_toNat (f : BitVec 5) (r : BitVec 3) : (f ++ r).toNat = f.toNat * 8 + r.toNat := by
  have h := r.isLt
  rw [BitVec.toNat_append, ← Nat.shiftLeft_add_eq_or_of_lt h, Nat.shiftLeft_eq]

/-- The 19 no-argument ids of the default table. -/
theorem default_noarg_eq_none_iff (id : BitVec 6) : OpTable.default.noarg id = none ↔ 19 ≤ id.toNat :=
  List.getElem?_eq_none_iff

/-- The kinds of the 24 families of the default table. -/
theorem default_fam_kind {f : BitVec 5} (h : f.toNat < 24) : ∃ op, OpTable.default.fam f = some (op,
    if f.toNat = 3 then .cond else if f.toNat ∈ [7, 8, 12, 14, 15, 22, 23] then .regOnly else .immReg) := by
  have hkind : ∀ f : BitVec 5, f.toNat < 24 → (OpTable.default.fam f).map Prod.snd = some
      (if f.toNat = 3 then .cond else if f.toNat ∈ [7, 8, 12, 14, 15, 22, 23] then .regOnly else .immReg) := by
    decide
  obtain ⟨⟨op, k⟩, hrow, rfl⟩ := Option.map_eq_some_iff.mp (hkind f h)
  exact ⟨op, hrow⟩

theorem reason_ofShape {sh : Shape} (hwf : sh.wellFormed = true) (rest : List Byte) :
    (Decoded.ofShape sh rest).reason = .success := by
  obtain ⟨i, hi⟩ := Option.isSome_iff_exists.mp ((isSome_create sh).trans hwf)
  simp [Decoded.ofShape, hi]

/-- The reason of a decode under the default table, by the number of the first byte and whether it is the only one (R69). -/
def defaultReason (b : Nat) (alone : Prop) [Decidable alone] : Reason :=
  if 0xD3 ≤ b then .invalidOpCode
  else if b ∈ [0x38, 0x40, 0x60, 0x70, 0x78, 0xB0, 0xB8] then .invalidArgument
  else if alone ∧ ((0x18 ≤ b ∧ b ≤ 0x1F) ∨ (b < 0xC0 ∧ b % 8 = 0)) then .noImmediate
  else .success

theorem decode_reason_noArgByte (id : BitVec 6) (tail : List Byte) :
    (decode ((0b11#2 ++ id) :: tail)).reason = defaultReason (192 + id.toNat) (tail = []) := by
  unfold decode defaultReason
  cases hid : OpTable.default.noarg id with
  | none =>
    have hge := (default_noarg_eq_none_iff id).mp hid
    rw [decodeWith_noArg_unnamed hid, if_pos (by omega)]
    rfl
  | some op =>
    have hlt : ¬ 19 ≤ id.toNat := fun h => by simp [(default_noarg_eq_none_iff id).mpr h] at hid
    have hkind := OpTable.default_valid.noarg_kind id op hid
    rw [decodeWith_noArg hid, reason_ofShape (by simp [Shape.wellFormed, hkind]), if_neg (by omega), if_neg (by simp; omega),
      if_neg (by omega)]

theorem decode_reason_famByte {f : BitVec 5} (hlt : f.toNat < 24) (r : BitVec 3) (tail : List Byte) :
    (decode ((f ++ r) :: tail)).reason = defaultReason (f.toNat * 8 + r.toNat) (tail = []) := by
  have hr := r.isLt
  obtain ⟨op, hf⟩ := default_fam_kind hlt
  obtain ⟨hkind, -⟩ := OpTable.default_valid.fam_kind f op _ hf
  unfold decode defaultReason
  rw [if_neg (by omega)]
  by_cases hcond : f.toNat = 3
  · rw [if_pos hcond] at hf hkind
    rw [if_neg (by simp; omega)]
    cases tail with
    | nil =>
      rw [decodeWith_cond_missing hlt hf, if_pos (by simp; omega)]
      rfl
    | cons v rest =>
      rw [decodeWith_cond hlt hf, reason_ofShape (by simp [Shape.wellFormed, hkind]), if_neg (by simp)]
  rw [if_neg hcond] at hf hkind
  by_cases hregOnly : f.toNat ∈ [7, 8, 12, 14, 15, 22, 23]
  · rw [if_pos hregOnly] at hf hkind
    simp at hregOnly
    by_cases hzero : r = 0#3
    · subst hzero
      rw [decodeWith_regOnly_sentinel hlt hf, if_pos (by simp; omega)]
      rfl
    · have hpos : r.toNat ≠ 0 := fun h => hzero (BitVec.eq_of_toNat_eq h)
      rw [decodeWith_regForm hlt hf (.inr rfl) hzero, reason_ofShape (by simp [Shape.wellFormed, hkind, hzero]),
        if_neg (by simp; omega), if_neg (by omega)]
  · rw [if_neg hregOnly] at hf hkind
    simp at hregOnly
    rw [if_neg (by simp; omega)]
    by_cases hzero : r = 0#3
    · subst hzero
      cases tail with
      | nil =>
        rw [decodeWith_imm_missing hlt hf, if_pos (by simp; omega)]
        rfl
      | cons v rest =>
        rw [decodeWith_imm hlt hf, reason_ofShape (by simp [Shape.wellFormed, hkind]), if_neg (by simp)]
    · have hpos : r.toNat ≠ 0 := fun h => hzero (BitVec.eq_of_toNat_eq h)
      rw [decodeWith_regForm hlt hf (.inl rfl) hzero, reason_ofShape (by simp [Shape.wellFormed, hkind, hzero]),
        if_neg (by omega)]

theorem decode_reason (b0 : Byte) (tail : List Byte) :
    (decode (b0 :: tail)).reason = defaultReason b0.toNat (tail = []) := by
  obtain ⟨id, rfl⟩ | ⟨f, r, hlt, rfl⟩ := firstByte_cases b0
  · rw [decode_reason_noArgByte, noArgByte_toNat]
  · rw [decode_reason_famByte hlt, famByte_toNat]

/-- Settles O8: the words by evaluation of the decoder on each, the bytes from 0xD3 on by `decode_reason`. -/
theorem defaultTableWordsDecode : Obligations.DefaultTableWordsDecode :=
  ⟨by decide, by decide, by decide, fun b hb => (decode_reason b []).trans (if_pos hb)⟩

end Sys2Proof

namespace Sys2Proof.Machine

theorem fetchDecode_default (s : State) : fetchDecode OpTable.default s = decode s.fetchBytes := rfl

theorem State.fetchBytes_of_last {s : State} (h : s.pc = 0xFFFF#16) : s.fetchBytes = [s.readByte s.pc] := if_pos h

theorem State.fetchBytes_of_not_last {s : State} (h : s.pc ≠ 0xFFFF#16) :
    s.fetchBytes = [s.readByte s.pc, s.readByte (s.pc + 1#16)] := if_neg h

/-- The reason of a fetch under the default table; the window holds one byte only at 0xFFFF (D4). -/
theorem fetchDecode_default_reason (s : State) : (fetchDecode OpTable.default s).reason =
    defaultReason (s.readByte s.pc).toNat (s.pc = 0xFFFF#16) := by
  rw [fetchDecode_default]
  by_cases hlast : s.pc = 0xFFFF#16
  · simp only [State.fetchBytes_of_last hlast, decode_reason, defaultReason, hlast]
  · simp only [State.fetchBytes_of_not_last hlast, decode_reason, defaultReason, hlast, reduceCtorEq]

/-- A decode of fetched bytes gives an instruction exactly when its reason is success (R66, R68). -/
theorem fetchDecode_instr_isSome_iff {T : OpTable} (hT : T.Valid) (s : State) :
    (fetchDecode T s).instr.isSome = true ↔ (fetchDecode T s).reason = .success := by
  unfold fetchDecode
  have hout := decodeWith_outcome hT s.fetchBytes
  generalize decodeWith T s.fetchBytes = d at hout ⊢
  generalize s.fetchBytes = bs at hout
  cases hout with
  | noData | invalidOpCode | invalidArgument | noImmediate => simp [Decoded.failed]
  | success => simp

/-- A step whose decode fails halts with the reason of the decode. -/
theorem step_of_decode_reason {s : State} (hrun : s.halted = false) {why : Reason}
    (hreason : (fetchDecode OpTable.default s).reason = why) (hfail : why ≠ .success) :
    ∃ t, step s = .next t ∧ t.halted = true ∧ t.haltReason = haltReasonOf why := by
  have hnone : (fetchDecode OpTable.default s).instr = none := by
    rw [← Option.not_isSome_iff_eq_none, fetchDecode_instr_isSome_iff OpTable.default_valid, hreason]
    exact hfail
  exact ⟨_, cycle_of_decodeFailure _ hrun hnone, rfl, by rw [decodeFailureState_haltReason, hreason]⟩

/-- Settles O39: the conditions of the statement are those of `defaultReason`, one after the other. -/
theorem causesOfDecodeFailure : Obligations.CausesOfDecodeFailure := by
  intro s hrun b
  have hreason := fetchDecode_default_reason s
  rw [defaultReason] at hreason
  split
  · next h =>
    rw [if_pos h] at hreason
    exact step_of_decode_reason hrun hreason (by decide)
  next hop =>
  rw [if_neg hop] at hreason
  split
  · next h =>
    rw [if_pos h] at hreason
    exact step_of_decode_reason hrun hreason (by decide)
  next harg =>
  rw [if_neg harg] at hreason
  split
  · next h =>
    rw [if_pos h] at hreason
    exact step_of_decode_reason hrun hreason (by decide)
  · next himm =>
    rw [if_neg himm] at hreason
    exact Option.isSome_iff_exists.mp ((fetchDecode_instr_isSome_iff OpTable.default_valid s).mpr hreason)

end Sys2Proof.Machine
end

section
/-! The fetch of 20_memory.md (R38): two bytes decide what the whole window decides (R67, R145), and stores at the program
counter are seen by the next fetch (R50). -/

namespace Sys2Proof

/-! ## The two bytes that decide a decode -/

/-- A decode with more bytes left over. -/
def Decoded.withMore (d : Decoded) (more : List Byte) : Decoded :=
  { d with rest := d.rest ++ more }

theorem Decoded.ofShape_append (sh : Shape) (rest more : List Byte) :
    Decoded.ofShape sh (rest ++ more) = (Decoded.ofShape sh rest).withMore more := by
  unfold Decoded.ofShape
  split <;> rfl

theorem Decoded.failed_append (why : Reason) (rest more : List Byte) :
    Decoded.failed why (rest ++ more) = (Decoded.failed why rest).withMore more := rfl

/-- Bytes after the second are left over by a family's first byte, whatever its kind. -/
theorem decodeWith_famByte_more (T : OpTable) {f : BitVec 5} (hlt : f.toNat < 24) (r : BitVec 3) (b1 : Byte)
    (more : List Byte) :
    decodeWith T ((f ++ r) :: b1 :: more) = (decodeWith T [f ++ r, b1]).withMore more := by
  cases hf : T.fam f with
  | none =>
    rw [decodeWith_fam_unnamed hlt hf, decodeWith_fam_unnamed hlt hf]
    exact Decoded.failed_append _ [b1] more
  | some row =>
    obtain ⟨op, k⟩ := row
    cases k with
    | cond =>
      rw [decodeWith_cond hlt hf, decodeWith_cond hlt hf]
      exact Decoded.ofShape_append _ [] more
    | regOnly =>
      by_cases hr : r = 0#3
      · subst hr
        rw [decodeWith_regOnly_sentinel hlt hf, decodeWith_regOnly_sentinel hlt hf]
        exact Decoded.failed_append _ [b1] more
      · rw [decodeWith_regForm hlt hf (.inr rfl) hr, decodeWith_regForm hlt hf (.inr rfl) hr]
        exact Decoded.ofShape_append _ [b1] more
    | immReg =>
      by_cases hr : r = 0#3
      · subst hr
        rw [decodeWith_imm hlt hf, decodeWith_imm hlt hf]
        exact Decoded.ofShape_append _ [] more
      · rw [decodeWith_regForm hlt hf (.inl rfl) hr, decodeWith_regForm hlt hf (.inl rfl) hr]
        exact Decoded.ofShape_append _ [b1] more

/-- Bytes after the second are left over and decide nothing (R67). -/
theorem decodeWith_more (T : OpTable) (b0 b1 : Byte) (more : List Byte) :
    decodeWith T (b0 :: b1 :: more) = (decodeWith T [b0, b1]).withMore more := by
  obtain ⟨id, rfl⟩ | ⟨f, r, hlt, rfl⟩ := firstByte_cases b0
  · cases hid : T.noarg id with
    | none =>
      rw [decodeWith_noArg_unnamed hid, decodeWith_noArg_unnamed hid]
      exact Decoded.failed_append _ [b1] more
    | some op =>
      rw [decodeWith_noArg hid, decodeWith_noArg hid]
      exact Decoded.ofShape_append _ [b1] more
  · exact decodeWith_famByte_more T hlt r b1 more

end Sys2Proof

namespace Sys2Proof.Machine

/-- The number of an address one up, where there is one. -/
theorem addr_succ_toNat {x : Addr} (h : x ≠ 0xFFFF#16) : (x + 1#16).toNat = x.toNat + 1 := by
  have hx := x.isLt
  have hne : x.toNat ≠ 65535 := fun e => h (BitVec.eq_of_toNat_eq e)
  rw [BitVec.toNat_add]
  exact Nat.mod_eq_of_lt (by simp; omega)

theorem State.fetchWindow_of_last {s : State} (h : s.pc = 0xFFFF#16) : s.fetchWindow = s.fetchBytes := by
  rw [State.fetchBytes_of_last h, State.fetchWindow, h]
  rfl

/-- Before 0xFFFF the window starts with the two fetched bytes (R38, R145). -/
theorem State.fetchWindow_of_not_last {s : State} (h : s.pc ≠ 0xFFFF#16) :
    ∃ more, s.fetchWindow = s.readByte s.pc :: s.readByte (s.pc + 1#16) :: more := by
  have hpc := s.pc.isLt
  have hsucc := addr_succ_toNat h
  obtain ⟨n, hn⟩ : ∃ n, Config.memorySize - s.pc.toNat = n + 2 := by
    have hlt := (s.pc + 1#16).isLt
    exact ⟨Config.memorySize - s.pc.toNat - 2, by unfold Config.memorySize; omega⟩
  refine ⟨(List.range n).map fun k => Memory.read s.mem (s.pc.toNat + (k + 2)), ?_⟩
  rw [State.fetchWindow, hn, List.range_succ_eq_map, List.range_succ_eq_map]
  simp [State.readByte, hsucc, Function.comp_def]

/-- Settles O11: what follows the two fetched bytes is left over, so that the bytes consumed are the same. -/
theorem fetchedBytesDecideTheWindow : Obligations.FetchedBytesDecideTheWindow := by
  intro T s
  by_cases hlast : s.pc = 0xFFFF#16
  · rw [State.fetchWindow_of_last hlast]
    exact ⟨rfl, rfl, rfl⟩
  · obtain ⟨more, hwindow⟩ := State.fetchWindow_of_not_last hlast
    rw [hwindow, decodeWith_more, consumed, fetchDecode, State.fetchBytes_of_not_last hlast]
    refine ⟨rfl, rfl, ?_⟩
    simp [Decoded.withMore]
    omega

/-! ## Stores at the program counter (R50) -/

theorem State.pc_placeBytes (s : State) (b0 b1 : Byte) : (s.placeBytes b0 b1).pc = s.pc := by
  unfold State.placeBytes
  split <;> rfl

theorem State.placeBytes_of_last {s : State} (h : s.pc = 0xFFFF#16) (b0 b1 : Byte) :
    s.placeBytes b0 b1 = s.writeByte s.pc b0 := if_pos h

theorem State.placeBytes_of_not_last {s : State} (h : s.pc ≠ 0xFFFF#16) (b0 b1 : Byte) :
    s.placeBytes b0 b1 = (s.writeByte s.pc b0).writeByte (s.pc + 1#16) b1 := if_neg h

/-- Settles O60: the second store does not reach the first byte, and the last byte of memory takes one store only. -/
theorem storedBytesAreFetched : Obligations.StoredBytesAreFetched := by
  refine fun s b0 b1 => ⟨fun h => ?both, fun h => ?last, fun x h0 h1 => ?others⟩
  case both =>
    rw [State.fetchBytes_of_not_last (by rwa [State.pc_placeBytes]), State.pc_placeBytes, State.placeBytes_of_not_last h,
      State.readByte_writeByte_same, State.readByte_writeByte_other _ _ _ _ (addr_ne_succ _),
      State.readByte_writeByte_same]
  case last =>
    rw [State.fetchBytes_of_last (by rwa [State.pc_placeBytes]), State.pc_placeBytes, State.placeBytes_of_last h,
      State.readByte_writeByte_same]
  case others =>
    unfold State.placeBytes
    split
    · exact State.readByte_writeByte_other s _ x b0 h0
    · exact (State.readByte_writeByte_other _ _ x b1 h1).trans (State.readByte_writeByte_other s _ x b0 h0)

end Sys2Proof.Machine
end

section
/-! The segment assembler of 30_encoding.md section 9 (R73 to R75): what one call, a chain of calls and a sequence of chunks
write, and that the fetch reads the instructions of an assembled program back. -/

namespace Sys2Proof

/-! ## The bytes of an instruction -/

section Bytes

variable {T : OpTable} (hT : T.Valid) (i : Instr)
include hT

theorem encodeWith_eq_bytesWith : encodeWith T i = some (bytesWith T i) := by
  obtain ⟨enc, henc, -⟩ := decodeWith_encodeWith hT i
  rw [henc, bytesWith_of_encodeWith henc]

theorem decodeWith_bytesWith (tail : List Byte) :
    decodeWith T (bytesWith T i ++ tail) = { instr := some i, rest := tail, reason := .success } := by
  obtain ⟨enc, henc, hdec⟩ := decodeWith_encodeWith hT i
  rw [bytesWith_of_encodeWith henc, hdec]

/-- An instruction has one byte or two (R63). -/
theorem bytesWith_cases : (∃ b, bytesWith T i = [b]) ∨ ∃ b0 b1, bytesWith T i = [b0, b1] := by
  have hlen := length_of_encodeShape (encodeWith_eq_bytesWith hT i)
  cases hsh : i.shape <;> rw [hsh] at hlen
  · exact .inl (List.length_eq_one_iff.mp hlen)
  · exact .inl (List.length_eq_one_iff.mp hlen)
  · exact .inr (List.length_eq_two.mp hlen)
  · exact .inr (List.length_eq_two.mp hlen)

end Bytes

/-! ## One call (R74) -/

section Loop

variable {T : OpTable} {k : Nat} {i : Instr} (ins : List Instr)

theorem assembleFrom_full (hk : 256 ≤ k) :
    assembleFrom T k (i :: ins) = { segment := [], leftover := i :: ins, deferred := none } := by
  rw [assembleFrom, if_pos hk]

theorem assembleFrom_one {b : Byte} (hk : k < 256) (hi : bytesWith T i = [b]) :
    assembleFrom T k (i :: ins) =
      { assembleFrom T (k + 1) ins with segment := b :: (assembleFrom T (k + 1) ins).segment } := by
  rw [assembleFrom, if_neg hk.not_ge, hi]
  rfl

theorem assembleFrom_two {b0 b1 : Byte} (hk : k + 1 < 256) (hi : bytesWith T i = [b0, b1]) :
    assembleFrom T k (i :: ins) =
      { assembleFrom T (k + 2) ins with segment := b0 :: b1 :: (assembleFrom T (k + 2) ins).segment } := by
  rw [assembleFrom, if_neg (by omega), hi]
  exact if_neg (by omega)

/-- An immediate that does not fit in the last slot is deferred. -/
theorem assembleFrom_deferred {b0 b1 : Byte} (hk : k + 1 = 256) (hi : bytesWith T i = [b0, b1]) :
    assembleFrom T k (i :: ins) = { segment := [b0], leftover := ins, deferred := some b1 } := by
  rw [assembleFrom, if_neg (by omega), hi]
  exact if_pos hk

end Loop

/-- What a call that starts with `k` slots written does with a stream of instructions: it keeps every byte, stays in the segment,
leaves something over or deferred only from a full segment, and writes an instruction unless the segment was full. -/
structure Assembled.Sound (T : OpTable) (k : Nat) (ins : List Instr) (r : Assembled) : Prop where
  conserves : r.segment ++ r.deferred.toList ++ r.leftover.flatMap (bytesWith T) = ins.flatMap (bytesWith T)
  fits : k + r.segment.length ≤ 256
  full : r.leftover ≠ [] ∨ r.deferred ≠ none → k + r.segment.length = 256
  shrinks : r.leftover.length ≤ ins.length ∧ (k < 256 → r.leftover = [] ∨ r.leftover.length < ins.length)

/-- Writing a whole instruction in front of a sound rest is sound. -/
theorem Assembled.Sound.prepend {T : OpTable} {k : Nat} {i : Instr} {ins : List Instr} {r : Assembled} {bs : List Byte}
    (hi : bytesWith T i = bs) (h : r.Sound T (k + bs.length) ins) :
    { r with segment := bs ++ r.segment }.Sound T k (i :: ins) := by
  obtain ⟨hconserves, hfits, hfull, hshrinks, -⟩ := h
  constructor
  case conserves => rw [List.flatMap_cons, hi, ← hconserves, List.append_assoc, List.append_assoc, List.append_assoc]
  case fits => rwa [List.length_append, ← Nat.add_assoc]
  case full => rwa [List.length_append, ← Nat.add_assoc]
  case shrinks => exact ⟨Nat.le_succ_of_le hshrinks, fun _ => .inr (Nat.lt_succ_of_le hshrinks)⟩

/-- The loop of R74 is sound, by induction on the instructions. -/
theorem assembleFrom_sound {T : OpTable} (hT : T.Valid) (ins : List Instr) {k : Nat} (hk : k ≤ 256) :
    (assembleFrom T k ins).Sound T k ins := by
  induction ins generalizing k with
  | nil => constructor <;> simp [hk]
  | cons i ins ih =>
    by_cases hfull : 256 ≤ k
    · rw [assembleFrom_full ins hfull]
      exact ⟨rfl, hk, fun _ => hk.antisymm hfull, le_rfl, fun h => absurd hfull h.not_ge⟩
    obtain ⟨b, hi⟩ | ⟨b0, b1, hi⟩ := bytesWith_cases hT i
    · rw [assembleFrom_one ins (by omega) hi]
      exact .prepend hi (ih (k := k + 1) (by omega))
    · by_cases hlast : k + 1 = 256
      · rw [assembleFrom_deferred ins hlast hi]
        exact ⟨by simp [hi], hlast.le, fun _ => hlast, by simp, by simp⟩
      · rw [assembleFrom_two ins (by omega) hi]
        exact .prepend hi (ih (k := k + 2) (by omega))

/-- What one call of the assembler does, with a deferred byte or without. -/
structure Assembled.CallSound (T : OpTable) (ins : List Instr) (d : Option Byte) (r : Assembled) : Prop where
  conserves : r.segment ++ r.deferred.toList ++ r.leftover.flatMap (bytesWith T) = d.toList ++ ins.flatMap (bytesWith T)
  fits : r.segment.length ≤ 256
  full : r.leftover ≠ [] ∨ r.deferred ≠ none → r.segment.length = 256
  shrinks : r.leftover = [] ∨ r.leftover.length < ins.length

theorem assemble_sound {T : OpTable} (hT : T.Valid) (ins : List Instr) (d : Option Byte) :
    (assemble T ins d).CallSound T ins d := by
  cases d with
  | none =>
    obtain ⟨hconserves, hfits, hfull, -, hshrinks⟩ := assembleFrom_sound hT ins (k := 0) (by decide)
    rw [Nat.zero_add] at hfits hfull
    exact ⟨hconserves, hfits, hfull, hshrinks (by decide)⟩
  | some b =>
    obtain ⟨hconserves, hfits, hfull, -, hshrinks⟩ := assembleFrom_sound hT ins (k := 1) (by decide)
    rw [Nat.add_comm] at hfits hfull
    exact ⟨congrArg (b :: ·) hconserves, hfits, hfull, hshrinks (by decide)⟩

/-! ## A chain of calls (R73) -/

/-- What a chain of calls leaves: every byte is kept, in order; no segment is too long; every segment but the last is full, and
the last too if a byte is deferred. -/
structure ChainSound (T : OpTable) (ins : List Instr) (d : Option Byte) (q : List (List Byte) × Option Byte) : Prop where
  conserves : q.1.flatten ++ q.2.toList = d.toList ++ ins.flatMap (bytesWith T)
  fits : ∀ seg ∈ q.1, seg.length ≤ 256
  full : ∀ seg ∈ q.1.dropLast, seg.length = 256
  fullOfDeferred : q.2 ≠ none → ∀ seg ∈ q.1, seg.length = 256
  nonempty : q.1 ≠ []

/-- A chain of more calls than there are instructions is sound, by induction on the number of calls. -/
theorem assembleSegments_sound {T : OpTable} (hT : T.Valid) (n : Nat) {ins : List Instr} (d : Option Byte)
    (hn : ins.length < n) : ChainSound T ins d (assembleSegments T n ins d) := by
  induction n generalizing ins d with
  | zero => omega
  | succ n ih =>
    obtain ⟨hconserves, hfits, hfull, hshrinks⟩ := assemble_sound hT ins d
    rw [assembleSegments]
    by_cases hdone : (assemble T ins d).leftover = []
    · simp only [hdone, if_true]
      constructor
      case conserves => simpa [hdone] using hconserves
      case fits => simpa using hfits
      case full => simp
      case fullOfDeferred => simpa using fun h => hfull (.inr h)
      case nonempty => simp
    · obtain ⟨hconservesq, hfitsq, hfullq, hdeferredq, hnonempty⟩ :=
        ih (ins := (assemble T ins d).leftover) (assemble T ins d).deferred (by
          have := hshrinks.resolve_left hdone
          omega)
      have hhead := hfull (.inl hdone)
      simp only [hdone, if_false]
      constructor
      case conserves => rw [List.flatten_cons, List.append_assoc, hconservesq, ← List.append_assoc, hconserves]
      case fits => simpa [hhead.le] using hfitsq
      case full => simpa [List.dropLast_cons_of_ne_nil hnonempty, hhead] using hfullq
      case fullOfDeferred => exact fun h => by simpa [hhead] using hdeferredq h
      case nonempty => simp

/-! ## Chunks and programs (R75) -/

theorem assembleChunks_flatten {T : OpTable} (hT : T.Valid) (chunks : List (List Instr)) (d : Option Byte) :
    (assembleChunks T chunks d).flatten = d.toList ++ chunks.flatten.flatMap (bytesWith T) := by
  induction chunks generalizing d with
  | nil => cases d <;> rfl
  | cons ins more ih =>
    have hchain := (assembleSegments_sound hT (ins.length + 1) d (Nat.lt_succ_self ins.length)).conserves
    rw [assembleChunks_cons, List.flatten_append, ih, ← List.append_assoc, hchain, List.append_assoc, List.flatten_cons,
      List.flatMap_append]

theorem assembleChunks_fits {T : OpTable} (hT : T.Valid) (chunks : List (List Instr)) (d : Option Byte) :
    ∀ seg ∈ assembleChunks T chunks d, seg.length ≤ 256 := by
  induction chunks generalizing d with
  | nil => cases d <;> simp
  | cons ins more ih =>
    have hchain := (assembleSegments_sound hT (ins.length + 1) d (Nat.lt_succ_self ins.length)).fits
    intro seg hseg
    rw [assembleChunks_cons] at hseg
    exact (List.mem_append.mp hseg).elim (hchain seg) (ih _ seg)

theorem assembleProgram_flatten {T : OpTable} (hT : T.Valid) (ins : List Instr) :
    (assembleProgram T ins).flatten = ins.flatMap (bytesWith T) :=
  (assembleChunks_flatten hT [ins] none).trans (by simp)

/-- Every segment of a program but its last is full: the segment of a byte deferred at the end follows full segments only. -/
theorem assembleProgram_full {T : OpTable} (hT : T.Valid) (ins : List Instr) :
    ∀ seg ∈ (assembleProgram T ins).dropLast, seg.length = 256 := by
  have hchain := assembleSegments_sound hT (ins.length + 1) none (Nat.lt_succ_self ins.length)
  rw [assembleProgram, assembleChunks_cons, assembleChunks_nil]
  cases hdeferred : (assembleSegments T (ins.length + 1) ins none).2 with
  | none => simpa using hchain.full
  | some b => simpa using hchain.fullOfDeferred (by simp [hdeferred])

/-- Settles O9: one call by `assemble_sound`, chunks and programs by the chains of calls that they are made of. -/
theorem segmentsConserveTheStream : Obligations.SegmentsConserveTheStream := by
  refine fun T hT => ⟨encodeWith_eq_bytesWith hT, fun ins d => ?call,
    fun chunks d => ⟨assembleChunks_flatten hT chunks d, assembleChunks_fits hT chunks d⟩, assembleProgram_full hT⟩
  case call =>
    obtain ⟨hconserves, hfits, hfull, -⟩ := assemble_sound hT ins d
    exact ⟨hconserves, hfits, hfull⟩

/-! ## An assembled program in memory -/

/-- Where all segments but the last are full, byte `p` of the stream is byte `p % 256` of segment `p / 256` (R75). -/
theorem getElem?_segment_of_flatten {segs : List (List Byte)} (hfull : ∀ seg ∈ segs.dropLast, seg.length = 256)
    (hfits : ∀ seg ∈ segs, seg.length ≤ 256) {p : Nat} {b : Byte} (hb : segs.flatten[p]? = some b) :
    ∃ seg, segs[p / 256]? = some seg ∧ seg[p % 256]? = some b := by
  induction segs generalizing p with
  | nil => simp at hb
  | cons seg segs ih =>
    rw [List.flatten_cons] at hb
    by_cases hp : p < seg.length
    · have hlt : p < 256 := hp.trans_le (hfits seg (by simp))
      refine ⟨seg, ?_, ?_⟩
      · simp [Nat.div_eq_of_lt hlt]
      · rwa [Nat.mod_eq_of_lt hlt, ← List.getElem?_append_left hp]
    · rw [List.getElem?_append_right (by omega)] at hb
      have hne : segs ≠ [] := by
        rintro rfl
        simp at hb
      rw [List.dropLast_cons_of_ne_nil hne] at hfull
      have hseg : seg.length = 256 := hfull seg (by simp)
      obtain ⟨m, rfl⟩ : ∃ m, p = m + 256 := ⟨p - 256, by omega⟩
      rw [hseg, Nat.add_sub_cancel] at hb
      rw [Nat.add_div_right m (by decide), Nat.add_mod_right]
      exact ih (fun s hs => hfull s (by simp [hs])) (fun s hs => hfits s (by simp [hs])) hb

end Sys2Proof

namespace Sys2Proof.Machine

/-- The program's segments stand in memory, one after the other from segment number `first`. -/
def State.Holds (s : State) (first : Byte) (segs : List (List Byte)) : Prop :=
  ∀ (j k : Nat) (seg : List Byte) (b : Byte), segs[j]? = some seg → seg[k]? = some b →
    s.readByte (segAddr (first + BitVec.ofNat 8 j) (BitVec.ofNat 8 k)) = b

/-- A place of the stream, as segment number and offset and as distance from the first byte: below the end of memory the two are
one address. -/
theorem segAddr_stream {first : Byte} {p : Nat} (h : first.toNat + p / 256 < 256) :
    segAddr (first + BitVec.ofNat 8 (p / 256)) (BitVec.ofNat 8 (p % 256)) = segAddr first 0x00#8 + BitVec.ofNat 16 p ∧
    (segAddr first 0x00#8 + BitVec.ofNat 16 p).toNat = first.toNat * 256 + p := by
  have hnum : (segAddr first 0x00#8 + BitVec.ofNat 16 p).toNat = first.toNat * 256 + p := by
    simp [segAddr_toNat]
    omega
  refine ⟨BitVec.eq_of_toNat_eq ?_, hnum⟩
  rw [hnum, segAddr_toNat]
  simp
  omega

/-- The bytes of an assembled program are read at their distance from its first byte. -/
theorem readByte_of_holds {T : OpTable} (hT : T.Valid) {s : State} {first : Byte} {ins : List Instr}
    (hroom : first.toNat + (assembleProgram T ins).length ≤ 256) (hmem : s.Holds first (assembleProgram T ins))
    {p : Nat} {b : Byte} (hb : (ins.flatMap (bytesWith T))[p]? = some b) :
    s.readByte (segAddr first 0x00#8 + BitVec.ofNat 16 p) = b ∧
    (segAddr first 0x00#8 + BitVec.ofNat 16 p).toNat = first.toNat * 256 + p := by
  rw [← assembleProgram_flatten hT ins] at hb
  obtain ⟨seg, hseg, hbyte⟩ := getElem?_segment_of_flatten (assembleProgram_full hT ins) (assembleChunks_fits hT [ins] none) hb
  obtain ⟨hlt, -⟩ := List.getElem?_eq_some_iff.mp hseg
  obtain ⟨haddr, hnum⟩ := segAddr_stream (first := first) (p := p) (by omega)
  exact ⟨haddr ▸ hmem _ _ seg b hseg hbyte, hnum⟩

/-- Where the fetched bytes start with an instruction's bytes, the fetch decodes it and consumes them (R39). -/
theorem fetchDecode_of_fetchBytes {T : OpTable} (hT : T.Valid) {s : State} {i : Instr} {tail : List Byte}
    (h : s.fetchBytes = bytesWith T i ++ tail) :
    (fetchDecode T s).instr = some i ∧ consumed T s = (bytesWith T i).length := by
  rw [consumed, fetchDecode, h, decodeWith_bytesWith hT]
  exact ⟨rfl, by simp⟩

/-- Settles O10: the one or two bytes of the instruction stand at the program counter and after it; a second byte is in memory,
so that the program counter is not at 0xFFFF. -/
theorem assembledInstructionsAreFetched : Obligations.AssembledInstructionsAreFetched := by
  intro T hT pre post i first s hroom hmem hpc
  have hbyte (k : Nat) (b : Byte) (hk : (bytesWith T i)[k]? = some b) :=
    readByte_of_holds hT hroom hmem (p := (pre.flatMap (bytesWith T)).length + k) (b := b) (by
      obtain ⟨hlt, -⟩ := List.getElem?_eq_some_iff.mp hk
      rw [List.flatMap_append, List.flatMap_cons, List.getElem?_append_right (by omega), Nat.add_sub_cancel_left,
        List.getElem?_append_left hlt, hk])
  obtain ⟨b, hi⟩ | ⟨b0, b1, hi⟩ := bytesWith_cases hT i
  · obtain ⟨hread, -⟩ := hbyte 0 b (by simp [hi])
    rw [Nat.add_zero, ← hpc] at hread
    obtain ⟨tail, htail⟩ := s.fetchBytes_cons
    exact fetchDecode_of_fetchBytes hT (tail := tail) (by rw [htail, hread, hi]; rfl)
  · obtain ⟨hread0, hnum0⟩ := hbyte 0 b0 (by simp [hi])
    obtain ⟨hread1, hnum1⟩ := hbyte 1 b1 (by simp [hi])
    have hsucc : s.pc + 1#16 = segAddr first 0x00#8 + BitVec.ofNat 16 ((pre.flatMap (bytesWith T)).length + 1) := by
      rw [hpc, BitVec.add_assoc, BitVec.ofNat_add]
    rw [Nat.add_zero, ← hpc] at hread0 hnum0
    rw [← hsucc] at hread1 hnum1
    have hlast : s.pc ≠ 0xFFFF#16 := by
      intro h
      rw [h] at hnum0 hnum1
      have hwrap : (0xFFFF#16 + 1#16).toNat = 0 := rfl
      omega
    exact fetchDecode_of_fetchBytes hT (tail := [])
      (by rw [State.fetchBytes_of_not_last hlast, hread0, hread1, hi]; rfl)

end Sys2Proof.Machine
end
